-- ==== Sys2Proof/Word.lean ====
section
/-! DEFINITION. The word types of the block: bit patterns only where the spec speaks of bits (`30_encoding.md` R80, R81). -/

namespace Sys2Proof

/-- One byte of the descriptor memory (`20_memory.md` R61). -/
abbrev Byte := BitVec 8

/-- A 32-bit word: an address, a handle, an `f32` pattern or a plain unsigned field (R62, R63, R90). -/
abbrev Word32 := BitVec 32

/-- A 64-bit command word (`CMD64`, R81) or response word (`RSP64`, R86). -/
abbrev Word64 := BitVec 64

end Sys2Proof
end

