-- ==== Sys2Proof/Config.lean ====
section
/-! DEFINITION. What is fixed for the hardware (`00_scope.md` R8) and the function units it leaves open (R6). -/

namespace Sys2Proof

/-- `PHASE_INT_BITS` (R8): the index bits of the phase. -/
def Config.phaseIntBits : Nat := 10

/-- `PHASE_FRAC_BITS` (R8). -/
def Config.phaseFracBits : Nat := 22

/-- `TONE_WIDTH` = 2^`PHASE_INT_BITS` (R8; PRESUMED by the spec itself, G1, entry 19). -/
def Config.toneWidth : Nat := 1024

/-- `TONE_MAX` (R8; PRESUMED by the spec itself, G2, entry 19). -/
def Config.toneMax : Nat := 1023

/-- `RECORD_BYTES` (R8). -/
def Config.recordBytes : Nat := 64

/-- One past the last address of `MEM`: 2^`ADDR_BITS` (R8, R61). -/
def Config.memSize : Nat := 2 ^ 32

/-- What a tone effect returns: the new instantaneous frequency and volume, two `f32` patterns (R140). -/
structure FxResult where
  freq : Word32
  vol : Word32
  deriving DecidableEq, Repr, Inhabited

/-- The attached function units (R251), applied by handle: the tone prints `TP(sel, param, idx)` (R130) and the
tone effects `FX(sel, f, v, p0, p1, step, steps)` (R140). Total, pure and deterministic (R16, R142). -/
structure Units where
  tp : Word32 → Word32 → BitVec 10 → BitVec 16
  fx : Word32 → Word32 → Word32 → Word32 → Word32 → Word32 → Word32 → FxResult

/-- The bodies of the tone prints of `TP_TABLE`: a free value (R6, R130; entry 1). -/
opaque Config.tonePrint : Word32 → Word32 → BitVec 10 → BitVec 16

/-- The bodies of the tone effects of `FX_TABLE`: a free value (R6, R140; entry 1). -/
opaque Config.toneEffect :
  Word32 → Word32 → Word32 → Word32 → Word32 → Word32 → Word32 → FxResult

/-- The units attached to this block. -/
def Config.units : Units := ⟨Config.tonePrint, Config.toneEffect⟩

end Sys2Proof
end

