-- ==== Sys2Proof/Syntax.lean ====
section
/-! DEFINITION. The instructions: one constructor per row of spec/opcode_table.json (`30_encoding.md` R82, R90, R97). -/

namespace Sys2Proof

/-- The two command ports, which stand for the two execution contexts (R84, R249). -/
inductive Port where
  /-- The control port: the issuing context. -/
  | control
  /-- The stream port: the rendering context. -/
  | stream
  deriving DecidableEq, Repr

/-- One tone-effect binding of a record: handle (0 = absent) and two `f32` parameters (R90, R143). -/
structure FxBinding where
  sel : Word32
  p0 : Word32
  p1 : Word32
  deriving DecidableEq, Repr

/-- The fifteen latched fields of a SoundEffect record; the reserved word 15 is never read (R37, R90, R92).
`N_FX` = 3 bindings, each its own field. -/
structure Effect where
  freq : Word32
  vol : Word32
  duration : Word32
  tpSel : Word32
  tpParam : Word32
  fx0 : FxBinding
  fx1 : FxBinding
  fx2 : FxBinding
  steps : Word32
  deriving DecidableEq, Repr

/-- The ten commands of R82 and the record of R90. An operand that R82 shows as 0 is no operand.
GET_FORMAT alone is legal on both ports and answers where it arrived, so it carries its port (entry 11). -/
inductive Instr where
  /-- PLAY `A` = base, `B` = len (R110). -/
  | play (base : Word32) (len : BitVec 24)
  /-- SET_SAMPLE_RATE `A` (R216). -/
  | setSampleRate (a : Word32)
  /-- GET_SAMPLE_RATE (R217). -/
  | getSampleRate
  /-- SET_SAMPLE_RANGE `A` (R218). -/
  | setSampleRange (a : Word32)
  /-- GET_SAMPLE_RANGE (R219). -/
  | getSampleRange
  /-- SET_BUFFER_SIZE `A` (R220). -/
  | setBufferSize (a : Word32)
  /-- SET_OR_MASK `A` (R221). -/
  | setOrMask (a : Word32)
  /-- CONNECT `A` = sink handle (R187). -/
  | connect (a : Word32)
  /-- GET_FORMAT on the port it arrived on (R188). -/
  | getFormat (port : Port)
  /-- PULL (R180). -/
  | pull
  /-- EFFECT: a record of the sequence (R90, R114). -/
  | effect (r : Effect)
  deriving DecidableEq, Repr

end Sys2Proof
end

