-- ==== Sys2Proof/WellFormed.lean ====
section
/-! DEFINITION. Which instruction terms stand for an instruction of the spec. Widths are carried by the types. -/

namespace Sys2Proof

/-- R90: the record's `steps` is "at least 1"; R97: every value of a command's operands is a legal word.
Whether a handle is known depends on the tables and is no matter of syntax (R111). -/
def Instr.wellFormed : Instr → Bool
  | .play _ _ => true
  | .setSampleRate _ => true
  | .getSampleRate => true
  | .setSampleRange _ => true
  | .getSampleRange => true
  | .setBufferSize _ => true
  | .setOrMask _ => true
  | .connect _ => true
  | .getFormat _ => true
  | .pull => true
  | .effect r => r.steps != 0#32

end Sys2Proof
end

