-- ==== Sys2Proof/Decode.lean ====
section
/-! DEFINITION. The decoder, total on every word of every port and on every record, and the encoder
(`30_encoding.md` R80 to R85, R90). -/

namespace Sys2Proof

/-! ## Command words -/

/-- `OP` = bits 63:56 (R81). -/
def cmdOp (w : Word64) : BitVec 8 := w.extractLsb' 56 8

/-- `B` = bits 55:32 (R81). -/
def cmdB (w : Word64) : BitVec 24 := w.extractLsb' 32 24

/-- `A` = bits 31:0 (R81). -/
def cmdA (w : Word64) : Word32 := w.extractLsb' 0 32

/-- `OP ++ B ++ A` (R81). -/
def cmdWord (op : BitVec 8) (b : BitVec 24) (a : Word32) : Word64 := op ++ b ++ a

/-- Why a word is no command on its port: the three cases (a), (b), (c) of R85. Not reported by the hardware. -/
inductive IllegalCause where
  /-- R85(a): `OP` is 0x00 or 0x0B to 0xFF. -/
  | reservedOpcode
  /-- R85(b): a field that R82 shows as 0 is not zero. -/
  | nonzeroField
  /-- R85(c): the word arrived on a port where R84 does not allow it. -/
  | wrongPort
  deriving DecidableEq, Repr

/-- The "port" column of R82 (R84). A record is no port word. -/
def Instr.ports : Instr → List Port
  | .play _ _ => [.control]
  | .setSampleRate _ => [.control]
  | .getSampleRate => [.control]
  | .setSampleRange _ => [.control]
  | .getSampleRange => [.control]
  | .setBufferSize _ => [.control]
  | .setOrMask _ => [.control]
  | .connect _ => [.control]
  | .getFormat _ => [.control, .stream]
  | .pull => [.stream]
  | .effect _ => []

/-- R85(b) and (c) for a word whose opcode is legal. -/
def acceptOn (p : Port) (fieldsZero : Bool) (i : Instr) : Except IllegalCause Instr :=
  if fieldsZero then
    if p ∈ i.ports then .ok i else .error .wrongPort
  else .error .nonzeroField

/-- The decoder of a port: the opcode map of R82. -/
def decodeCommand (p : Port) (w : Word64) : Except IllegalCause Instr :=
  let a := cmdA w
  let b := cmdB w
  match (cmdOp w).toNat with
  | 0x01 => acceptOn p true (.play a b)
  | 0x02 => acceptOn p (b == 0#24) (.setSampleRate a)
  | 0x03 => acceptOn p (b == 0#24 && a == 0#32) .getSampleRate
  | 0x04 => acceptOn p (b == 0#24) (.setSampleRange a)
  | 0x05 => acceptOn p (b == 0#24 && a == 0#32) .getSampleRange
  | 0x06 => acceptOn p (b == 0#24) (.setBufferSize a)
  | 0x07 => acceptOn p (b == 0#24) (.setOrMask a)
  | 0x08 => acceptOn p (b == 0#24) (.connect a)
  | 0x09 => acceptOn p (b == 0#24 && a == 0#32) (.getFormat p)
  | 0x0A => acceptOn p (b == 0#24 && a == 0#32) .pull
  | _ => .error .reservedOpcode

/-! ## Records -/

/-- A record as it lies in memory: sixteen 32-bit words, word `i` at byte offset `4*i` (R90). -/
abbrev Record := Vector Word32 16

/-- The field order of R90. The reserved word 15 is not among the words read (R68, R92). -/
def Effect.ofWords (word : Nat → Word32) : Effect where
  freq := word 0
  vol := word 1
  duration := word 2
  tpSel := word 3
  tpParam := word 4
  fx0 := ⟨word 5, word 6, word 7⟩
  fx1 := ⟨word 8, word 9, word 10⟩
  fx2 := ⟨word 11, word 12, word 13⟩
  steps := word 14

/-- Every 64-byte block is a record (R97): decoding rejects none. -/
def decodeRecord (v : Record) : Effect := Effect.ofWords fun i => (v[i]?).getD 0#32

/-- The sixteen words of a record; the reserved word is written 0 (R90, R95). -/
def Effect.toRecord (r : Effect) : Record :=
  #v[r.freq, r.vol, r.duration, r.tpSel, r.tpParam,
     r.fx0.sel, r.fx0.p0, r.fx0.p1, r.fx1.sel, r.fx1.p0, r.fx1.p1, r.fx2.sel, r.fx2.p0, r.fx2.p1,
     r.steps, 0#32]

/-! ## Both forms together -/

/-- Where an instruction stands encoded: a word on a port, or a record in memory. -/
inductive Encoded where
  | command (p : Port) (w : Word64)
  | record (v : Record)
  deriving DecidableEq, Repr

/-- The decoder of the block. -/
def decode : Encoded → Except IllegalCause Instr
  | .command p w => decodeCommand p w
  | .record v => .ok (.effect (decodeRecord v))

/-- The encoder, from the tables of R82 and R90. -/
def encode : Instr → Encoded
  | .play base len => .command .control (cmdWord 0x01#8 len base)
  | .setSampleRate a => .command .control (cmdWord 0x02#8 0#24 a)
  | .getSampleRate => .command .control (cmdWord 0x03#8 0#24 0#32)
  | .setSampleRange a => .command .control (cmdWord 0x04#8 0#24 a)
  | .getSampleRange => .command .control (cmdWord 0x05#8 0#24 0#32)
  | .setBufferSize a => .command .control (cmdWord 0x06#8 0#24 a)
  | .setOrMask a => .command .control (cmdWord 0x07#8 0#24 a)
  | .connect a => .command .control (cmdWord 0x08#8 0#24 a)
  | .getFormat p => .command p (cmdWord 0x09#8 0#24 0#32)
  | .pull => .command .stream (cmdWord 0x0A#8 0#24 0#32)
  | .effect r => .record r.toRecord

/-! ## The opcode table's numbering -/

/-- The record whose bits are `w`, word 0 at bits 31:0 (the EFFECT row of the opcode table). -/
def recordOfNat (w : Nat) : Record := Vector.ofFn fun i => BitVec.ofNat 32 (w >>> (32 * i.val))

/-- The port on which a table word is legal: the control port before the stream port (GET_FORMAT is legal on
both); a word legal on neither is offered to the control port (entry 16). -/
def tablePort (w : Word64) : Port :=
  match decodeCommand .control w, decodeCommand .stream w with
  | .error _, .ok _ => .stream
  | _, _ => .control

/-- The instruction of an opcode-table row. A row of 64 bits is a command word; the only other row is the
record, of 512 bits, whose bits above `nbits` are zero where it is cut short (entry 16). -/
def decodeTableWord (nbits w : Nat) : Option Instr :=
  if nbits = 64 then (decodeCommand (tablePort (BitVec.ofNat 64 w)) (BitVec.ofNat 64 w)).toOption
  else if nbits ≤ 512 then some (.effect (decodeRecord (recordOfNat w)))
  else none

end Sys2Proof
end

