-- ==== Sys2Proof/Machine/State.lean ====
section
/-! DEFINITION. The state of NCO-ENV as plain data (`10_state.md`), its reset value (R270), and how a step can stop. -/

namespace Sys2Proof.Machine

open Sys2Proof

/-- `GATE` (R38). -/
inductive Gate where
  | free
  | render
  deriving DecidableEq, Repr

/-- A PLAY that passed validation and waits for the gate: `play(base, len)` (R40). -/
structure HeldPlay where
  base : Word32
  len : BitVec 24
  deriving DecidableEq, Repr

/-- What the outside world does next, in the order it happens (the model's own; entries 4, 6, 7, 9). -/
inductive Input where
  /-- A command word offered to a port (R81). -/
  | command (p : Port) (w : Word64)
  /-- The host stores bytes from an address upward, in one step (R69, last row of R209). -/
  | write (a : Word32) (bytes : List Byte)
  /-- Reset is applied (R272). -/
  | reset
  /-- The outside world waits while the block takes a step of its own (R209, R210). -/
  | run
  deriving DecidableEq, Repr

/-- The block's outputs (R15, R42). -/
inductive Output where
  /-- A response word `RSP64` on a port (R86). -/
  | response (p : Port) (w : Word64)
  /-- A sample word `SMP16` of the burst of the PULL in progress (R88). -/
  | sample (w : BitVec 16)
  /-- A release event `REL32` (R89). -/
  | release (base : Word32)
  deriving DecidableEq, Repr

/-- The descriptor memory `MEM` (R61): address and byte, addresses strictly rising and below 2^32, no entry equal
to what an unlisted address reads as (see `Memory.wf`). -/
abbrev Memory := List Host.Cell

/-- What an unlisted address of `MEM` reads as: DESIGN CHOICE, unsafe (entry 3). -/
def unlistedByte : Byte := 0#8

/-- The canonical form from address `lo` on. -/
def Memory.wfFrom : Nat → Memory → Bool
  | _, [] => true
  | lo, (a, b) :: m => decide (lo ≤ a) && decide (a < 2 ^ 32) && (b != unlistedByte) && Memory.wfFrom (a + 1) m

/-- The canonical form of memory: equal memories are equal data. -/
def Memory.wf (m : Memory) : Bool := Memory.wfFrom 0 m

/-- Every piece of state the spec gives the block (`10_state.md` R20 to R40), `MEM` and the keys of the function
tables (R8, R43), and the model's two lists of inputs and outputs. `FORMAT` is hard-wired (`State.format`). -/
structure State where
  /-- `SAMPLE_RATE` (R21). -/
  sampleRate : BitVec 31
  /-- `SAMPLE_RANGE` (R22). -/
  sampleRange : BitVec 16
  /-- `BUFFER_SIZE` (R23). -/
  bufferSize : BitVec 31
  /-- `OR_MASK` (R24). -/
  orMask : BitVec 16
  /-- `SINK` (R26). -/
  sink : Word32
  /-- `CONNECTED` (R26). -/
  connected : Bool
  /-- `ACTIVE` (R27). -/
  active : Bool
  /-- `SEQ_BASE` (R28). -/
  seqBase : Word32
  /-- `SEQ_COUNT` (R28). -/
  seqCount : BitVec 18
  /-- `POS` (R29). -/
  pos : BitVec 18
  /-- `FREQ` (R30). -/
  freq : Word32
  /-- `VOL` (R31). -/
  vol : Word32
  /-- `PHASE` (R32). -/
  phase : Word32
  /-- `STEP` (R33). -/
  stepIndex : Word32
  /-- `SPS` (R34). -/
  sps : BitVec 64
  /-- `SW` (R35). -/
  sw : BitVec 64
  /-- `SN` (R36). -/
  sn : BitVec 64
  /-- The effect latch `E` (R37). -/
  e : Effect
  /-- `GATE` (R38). -/
  gate : Gate
  /-- `PULL_LIMIT` (R39). -/
  pullLimit : BitVec 31
  /-- `PULL_COUNT` (R39). -/
  pullCount : BitVec 31
  /-- `CTRL_HOLD` (R40). -/
  ctrlHold : Option HeldPlay
  /-- The handles that have a tone print: keys(`TP_TABLE`) (R8, R43; entry 2). -/
  tpKeys : List Word32
  /-- The handles that have a tone effect: keys(`FX_TABLE`) (R8, R43; entry 2). -/
  fxKeys : List Word32
  /-- `MEM` (R61). -/
  mem : Memory
  /-- What the outside world does next (the model's own; entry 4). -/
  inputs : List Input
  /-- The output history, oldest first (R42; the model's own; entry 10). -/
  out : List Output
  deriving DecidableEq, Repr

/-- Why the machine stops. -/
inductive Fault where
  /-- Raised by LOAD (so by PLAY install, TICK and EFFECT) on a record with `steps` = 0 or a handle with no
  function, which is possible only after the host broke R74 (R75, R114, U3). The spec asks for this fault. Safe. -/
  | invalidRecord
  deriving DecidableEq, Repr

/-- Why `exec` gives no meaning. -/
inductive Refusal where
  /-- Raised by an arm of `exec` whose instruction has no meaning yet. Safe. -/
  | notModelled (mnemonic : String)
  /-- Raised by a meaning that is handed a command whose step R209 does not list as enabled in that state: a word
  for a busy port (R41, U8), a new PULL before a held PLAY (R206), a record where none stands at `POS` (R114).
  `step` never does that. Safe (entry 12). -/
  | notEnabled
  deriving DecidableEq, Repr

/-- The latch after reset: "all fields 0" (R37). -/
def resetEffect : Effect := ⟨0#32, 0#32, 0#32, 0#32, 0#32, ⟨0#32, 0#32, 0#32⟩, ⟨0#32, 0#32, 0#32⟩, ⟨0#32, 0#32, 0#32⟩, 0#32⟩

/-- The machine right after reset (R9, R270, R271). The keys of the tables are a DESIGN CHOICE (entry 2). -/
def State.reset : State where
  sampleRate := 44100#31
  sampleRange := 1023#16
  bufferSize := 512#31
  orMask := 0#16
  sink := 0#32
  connected := false
  active := false
  seqBase := 0#32
  seqCount := 0#18
  pos := 0#18
  freq := 0x00000000#32
  vol := 0x00000000#32
  phase := 0#32
  stepIndex := 0#32
  sps := 0#64
  sw := 0#64
  sn := 0#64
  e := resetEffect
  gate := .free
  pullLimit := 0#31
  pullCount := 0#31
  ctrlHold := none
  tpKeys := [1#32, 2#32, 3#32]
  fxKeys := [1#32, 2#32, 3#32, 4#32]
  mem := []
  inputs := []
  out := []

end Sys2Proof.Machine
end

