-- ==== Sys2Proof/Machine/Ops.lean ====
section
/-! DEFINITION. The named operations over memory, registers and outputs that every meaning shares, and the one way
the block has of failing a command (R14, R242). -/

namespace Sys2Proof.Machine

open Sys2Proof

/-! ## Memory (`20_memory.md`) -/

/-- The byte at an address; every address is readable (R61, R70). -/
def Memory.readByte : Memory → Nat → Byte
  | [], _ => unlistedByte
  | (a, b) :: m, x => if a = x then b else Memory.readByte m x

/-- Store one byte, keeping the canonical form. Only the host does this (R69). -/
def Memory.setByte : Memory → Nat → Byte → Memory
  | [], x, v => if v = unlistedByte then [] else [(x, v)]
  | (a, b) :: m, x, v =>
    if x < a then (if v = unlistedByte then (a, b) :: m else (x, v) :: (a, b) :: m)
    else if x = a then (if v = unlistedByte then m else (x, v) :: m)
    else (a, b) :: Memory.setByte m x v

/-- Store bytes from an address upward; addresses are 32-bit (R61). -/
def Memory.writeBytes (m : Memory) (a : Word32) : List Byte → Memory
  | [] => m
  | b :: bs => Memory.writeBytes (m.setByte a.toNat b) (a + 1#32) bs

/-- `MemRead(addr, 4)`: little-endian (R13, R62). -/
def Memory.readWord (m : Memory) (a : Word32) : Word32 :=
  m.readByte (a + 3#32).toNat ++ m.readByte (a + 2#32).toNat ++ m.readByte (a + 1#32).toNat ++ m.readByte a.toNat

/-- The four bytes of a word in address order (R62). -/
def wordBytes (w : Word32) : List Byte :=
  [w.extractLsb' 0 8, w.extractLsb' 8 8, w.extractLsb' 16 8, w.extractLsb' 24 8]

/-- The 64 bytes of a record in address order (R90). -/
def recordBytes (v : Record) : List Byte := v.toList.flatMap wordBytes

/-- Field at offset `4*i` of the record at `r` is `MemRead(r + 4*i, 4)` (R66, R68, R90). -/
def Memory.readRecord (m : Memory) (r : Word32) : Effect :=
  Effect.ofWords fun i => m.readWord (r + BitVec.ofNat 32 (4 * i))

/-- Byte address of record `i` of a sequence: `b + 64*i` (R66). -/
def recordAddr (b : Word32) (i : BitVec 18) : Word32 := b + 64#32 * i.setWidth 32

/-! ## Hard-wired register -/

/-- `FORMAT` reads as 3 and holds nothing (R25). -/
def State.format (_s : State) : BitVec 8 := 3#8

/-! ## Outputs (R15, R42) -/

/-- The three status codes (R240). -/
inductive Status where
  | ok
  | invalidParameter
  | illegalCommand
  deriving DecidableEq, Repr

/-- The numbers of R240. -/
def Status.code : Status → BitVec 8
  | .ok => 0#8
  | .invalidParameter => 1#8
  | .illegalCommand => 2#8

/-- `RSP64`: `STATUS` = bits 63:56, bits 55:32 zero, `DATA` = bits 31:0 (R86). -/
def rspWord (st : Status) (data : Word32) : Word64 := st.code ++ 0#24 ++ data

/-- `respond(status, data)` on a port (R15). -/
def respond (p : Port) (st : Status) (data : Word32) (s : State) : State :=
  { s with out := s.out ++ [.response p (rspWord st data)] }

/-- `emit_sample(w)` (R15). -/
def emitSample (w : BitVec 16) (s : State) : State := { s with out := s.out ++ [.sample w] }

/-- `emit_release(base)` (R15, R118). -/
def emitRelease (base : Word32) (s : State) : State := { s with out := s.out ++ [.release base] }

/-! ## Failing a command: what stands in for taking an exception (R14, R242, R245) -/

/-- `raise`: the response carries the status code and nothing else changes. There is no saved state, no mode, no
vector and no return from a failure (R245), so no operation stands beside this one. -/
def raiseFailure (p : Port) (st : Status) (s : State) : State := respond p st 0#32 s

/-- `raise InvalidParameter` of a control command (R241). -/
def raiseInvalidParameter (s : State) : State := raiseFailure .control .invalidParameter s

/-- `raise IllegalCommand` on the port the word came from (R243). -/
def raiseIllegalCommand (p : Port) (s : State) : State := raiseFailure p .illegalCommand s

/-! ## Ending a step -/

/-- A step that can only go on or meet the one fault of U3. -/
def finish : Except Fault State → Host.Outcome State Fault Refusal
  | .ok s => .next s
  | .error f => .fault f

/-- A control command's step is enabled only while `CTRL_HOLD` = `none` (R40, R209). -/
def whenControlFree (s t : State) : Host.Outcome State Fault Refusal :=
  match s.ctrlHold with
  | none => .next t
  | some _ => .refused .notEnabled

/-- A stream command other than PULL is enabled only while `GATE` = `FREE` (R41, R209). -/
def whenStreamFree (s t : State) : Host.Outcome State Fault Refusal :=
  match s.gate with
  | .free => .next t
  | .render => .refused .notEnabled

/-! ## Reset (R270, R272) -/

/-- Reset in any state: every register at its reset value; `MEM` and the tables are not touched (R271), work in
flight is dropped without response or release. The lists of the outside world are not the block's (entry 9). -/
def applyReset (s : State) : State :=
  { State.reset with tpKeys := s.tpKeys, fxKeys := s.fxKeys, mem := s.mem, inputs := s.inputs, out := s.out }

end Sys2Proof.Machine
end

