-- ==== Sys2Proof/Machine/Operands.lean ====
section
/-! DEFINITION. The operand forms of the commands (`30_encoding.md` R83). -/

namespace Sys2Proof.Machine

open Sys2Proof

/-- `signed32(A) > 0`: the operand of SET_SAMPLE_RATE and SET_BUFFER_SIZE is a positive number (R83, R216, R220). -/
def positiveSigned (a : Word32) : Bool := decide (0 < a.toInt)

/-- `A[30:0]` (R216, R220). -/
def low31 (a : Word32) : BitVec 31 := a.extractLsb' 0 31

/-- `A[31:16] = 0`: the operand fits 16 bits (R83, R218, R221). -/
def fits16 (a : Word32) : Bool := a.extractLsb' 16 16 == 0#16

/-- `A[15:0]` (R218, R221). -/
def low16 (a : Word32) : BitVec 16 := a.extractLsb' 0 16

/-- `zext_32` (R10). -/
def zext32 {n : Nat} (v : BitVec n) : Word32 := v.setWidth 32

/-- The number of records of a PLAY operand: `len / 64` (R111, R112). -/
def recordCount (len : BitVec 24) : Nat := len.toNat / Config.recordBytes

/-- The length check of R111: a positive multiple of 64. -/
def lengthOk (len : BitVec 24) : Bool := len != 0#24 && len.toNat % Config.recordBytes == 0

/-- The address check of R111: 4-aligned, and `base + len` at most 2^32. -/
def addressOk (base : Word32) (len : BitVec 24) : Bool :=
  base.toNat % 4 == 0 && decide (base.toNat + len.toNat ≤ Config.memSize)

end Sys2Proof.Machine
end

