-- ==== Sys2Proof/Machine/Flags.lean ====
section
/-! DEFINITION. The conditions of the block: `ACTIVE` is its only flag and no arithmetic sets one (R27); these are
the tests the rules make on flags and counters. -/

namespace Sys2Proof.Machine

open Sys2Proof

/-- `start` of TICK part 1 (R152). -/
def atEffectStart (s : State) : Bool := s.sw == 0#64

/-- `boundary` of TICK part 1 (R152, R153). `E.steps - 1` is evaluated without wrap. -/
def atStepBoundary (s : State) : Bool :=
  s.sw != 0#64 && s.sps != 0#64 && s.sw.toNat % s.sps.toNat == 0 &&
    decide (s.stepIndex.toNat < s.e.steps.toNat - 1)

/-- The test of TICK part 4, after `SW` was incremented (R156). -/
def effectComplete (s : State) : Bool := s.sw == s.sn

/-- A TICK is the next step of the PULL in progress (R183). -/
def pullHasWork (s : State) : Bool := s.active && decide (s.pullCount.toNat < s.pullLimit.toNat)

/-- The handle has a tone print (R111, R133). -/
def knownTonePrint (s : State) (h : Word32) : Bool := s.tpKeys.contains h

/-- The handle is absent (0) or has a tone effect (R111, R143). -/
def knownToneEffect (s : State) (h : Word32) : Bool := h == 0#32 || s.fxKeys.contains h

/-- The record has a defined LOAD: `steps` at least 1, every handle known (R75, R114, U3). -/
def recordUsable (s : State) (r : Effect) : Bool :=
  r.steps != 0#32 && knownTonePrint s r.tpSel &&
    knownToneEffect s r.fx0.sel && knownToneEffect s r.fx1.sel && knownToneEffect s r.fx2.sel

end Sys2Proof.Machine
end

