-- ==== Sys2Proof/Machine/Configuration.lean ====
section
/-! DEFINITION. The six configuration commands (`46_configuration.md`): one atomic step each, no gate (R205, R215). -/

namespace Sys2Proof.Machine

open Sys2Proof

/-- SET_SAMPLE_RATE (R216). -/
def execSetSampleRate (a : Word32) (s : State) : Host.Outcome State Fault Refusal :=
  whenControlFree s
    (if positiveSigned a then respond .control .ok 0#32 { s with sampleRate := low31 a }
     else raiseInvalidParameter s)

/-- GET_SAMPLE_RATE (R217). -/
def execGetSampleRate (s : State) : Host.Outcome State Fault Refusal :=
  whenControlFree s (respond .control .ok (zext32 s.sampleRate) s)

/-- SET_SAMPLE_RANGE (R218). -/
def execSetSampleRange (a : Word32) (s : State) : Host.Outcome State Fault Refusal :=
  whenControlFree s
    (if fits16 a then respond .control .ok 0#32 { s with sampleRange := low16 a }
     else raiseInvalidParameter s)

/-- GET_SAMPLE_RANGE (R219). -/
def execGetSampleRange (s : State) : Host.Outcome State Fault Refusal :=
  whenControlFree s (respond .control .ok (zext32 s.sampleRange) s)

/-- SET_BUFFER_SIZE (R220). -/
def execSetBufferSize (a : Word32) (s : State) : Host.Outcome State Fault Refusal :=
  whenControlFree s
    (if positiveSigned a then respond .control .ok 0#32 { s with bufferSize := low31 a }
     else raiseInvalidParameter s)

/-- SET_OR_MASK (R221). -/
def execSetOrMask (a : Word32) (s : State) : Host.Outcome State Fault Refusal :=
  whenControlFree s
    (if fits16 a then respond .control .ok 0#32 { s with orMask := low16 a }
     else raiseInvalidParameter s)

end Sys2Proof.Machine
end

