-- ==== Sys2Proof/Machine/Arithmetic.lean ====
section
/-! DEFINITION. The exact arithmetic of the block (`40_effect_queue.md` R115, R117; `43_sample_tick.md` R170 to R177). -/

namespace Sys2Proof.Machine

open Sys2Proof

/-! ## Reading an `f32` pattern (R170) -/

/-- What a pattern is. A finite pattern stands for (-1)^s * mag / 2^149, `mag` a natural number: subnormals have
`mag` = m, the others (2^23 + m) * 2^(e - 1). -/
inductive F32 where
  | nan
  | posInf
  | negInf
  | finite (negative : Bool) (mag : Nat)
  deriving DecidableEq, Repr

/-- Sign `b[31]`. -/
def f32Sign (b : Word32) : Bool := b.getLsbD 31

/-- Biased exponent `b[30:23]`. -/
def f32Exp (b : Word32) : Nat := (b.extractLsb' 23 8).toNat

/-- Fraction `b[22:0]`. -/
def f32Frac (b : Word32) : Nat := (b.extractLsb' 0 23).toNat

/-- R170. -/
def classify (b : Word32) : F32 :=
  if f32Exp b = 255 then
    if f32Frac b ≠ 0 then .nan else if f32Sign b then .negInf else .posInf
  else if f32Exp b = 0 then .finite (f32Sign b) (f32Frac b)
  else .finite (f32Sign b) ((2 ^ 23 + f32Frac b) * 2 ^ (f32Exp b - 1))

/-- `fval` as the exact rational of R170; 0 on the patterns that have no value (never read there). Claims are
stated with it; the step computes with `mag` alone. -/
def fval (b : Word32) : ℚ :=
  match classify b with
  | .finite neg mag => (if neg then -1 else 1) * (mag : ℚ) / 2 ^ 149
  | _ => 0

/-! ## The frequency tuning word (R172) -/

/-- `ftw(fb, r)`: 0 unless the pattern is a positive finite number; else the floor of the exact quotient, modulo 2^32. -/
def ftw (fb : Word32) (r : BitVec 31) : Word32 :=
  match classify fb with
  | .finite false mag => BitVec.ofNat 32 (mag * 2 ^ 32 / (2 ^ 149 * r.toNat))
  | .finite true _ => 0#32
  | .nan => 0#32
  | .posInf => 0#32
  | .negInf => 0#32

/-! ## Amplitude scaling and the mask (R174, R175) -/

/-- `scale(raw, vb, g)`: exact product, one floor, clip to [0, g]. -/
def scale (raw : BitVec 16) (vb : Word32) (g : BitVec 16) : BitVec 16 :=
  match classify vb with
  | .nan => 0#16
  | .negInf => 0#16
  | .posInf => if raw = 0#16 then 0#16 else g
  | .finite true _ => 0#16
  | .finite false mag =>
    BitVec.ofNat 16 (min g.toNat (raw.toNat * mag * g.toNat / (2 ^ 149 * Config.toneMax)))

/-- The emitted word: `c | OR_MASK` (R175). -/
def maskSample (c mask : BitVec 16) : BitVec 16 := c ||| mask

/-! ## Sample counts (R115, R117) -/

/-- `SN = floor((E.duration * SAMPLE_RATE + 500) / 1000)`. -/
def samplesRequired (duration : Word32) (rate : BitVec 31) : BitVec 64 :=
  BitVec.ofNat 64 ((duration.toNat * rate.toNat + 500) / 1000)

/-- `SPS = SN div E.steps`. -/
def samplesPerStep (sn : BitVec 64) (steps : Word32) : BitVec 64 :=
  BitVec.ofNat 64 (sn.toNat / steps.toNat)

/-! ## The phase index (R132) -/

/-- `PHASE[31:22]`: truncation, no rounding. -/
def phaseIndex (phase : Word32) : BitVec 10 := phase.extractLsb' 22 10

end Sys2Proof.Machine
end

