-- ==== Sys2Proof/Machine/Queue.lean ====
section
/-! DEFINITION. The effect queue: LOAD, NEXT, PLAY and the EFFECT record (`40_effect_queue.md`). -/

namespace Sys2Proof.Machine

open Sys2Proof

/-! ## LOAD (R114) and NEXT (R113) -/

/-- What the loop body of LOAD writes for a record: the latch and the render reset (R114). -/
def latched (r : Effect) (s : State) : State :=
  { s with
    e := r
    freq := r.freq
    vol := r.vol
    phase := 0#32
    stepIndex := 0#32
    sw := 0#64
    sn := samplesRequired r.duration s.sampleRate
    sps := samplesPerStep (samplesRequired r.duration s.sampleRate) r.steps }

/-- The loop body of LOAD once the record at `POS` has been read. A record with no defined result is the fault of
U3 (R75). -/
def latch (r : Effect) (s : State) : Except Fault State :=
  if recordUsable s r then .ok (latched r s) else .error .invalidRecord

/-- LOAD's exhausted branch: idle, and the sequence is released (R114, R118). -/
def endSequence (s : State) : State := emitRelease s.seqBase { s with active := false }

/-- The record at `POS` (R66, R68). -/
def recordAtPos (s : State) : Effect := s.mem.readRecord (recordAddr s.seqBase s.pos)

/-- `POS <- POS + 1`, the only forward move of the position pointer (R29, R121). -/
def advancePos (s : State) : State := { s with pos := s.pos + 1#18 }

/-- The loop of LOAD with the number of records left; a record of zero samples is skipped (R116). -/
def loadLoop : Nat → State → Except Fault State
  | 0, s => .ok (endSequence s)
  | n + 1, s =>
    match latch (recordAtPos s) s with
    | .error f => .error f
    | .ok t => if t.sn = 0#64 then loadLoop n (advancePos t) else .ok t

/-- LOAD (R114): `POS` rises by one each time round and the loop stops at `SEQ_COUNT`. -/
def load (s : State) : Except Fault State := loadLoop (s.seqCount - s.pos).toNat s

/-- LOAD from the moment the record at `POS` has been read as `r`: latch it, and go on if it has no samples. -/
def runRecord (r : Effect) (s : State) : Except Fault State :=
  match latch r s with
  | .error f => .error f
  | .ok t => if t.sn = 0#64 then load (advancePos t) else .ok t

/-- NEXT (R113). -/
def nextEffect (s : State) : Except Fault State := load (advancePos s)

/-! ## PLAY (R110 to R112, R203, R204) -/

/-- The checks of R111 on the record at address `r`. -/
def recordAccepted (s : State) (r : Word32) : Bool :=
  s.mem.readWord (r + 56#32) != 0#32 &&
    knownTonePrint s (s.mem.readWord (r + 12#32)) &&
    knownToneEffect s (s.mem.readWord (r + 20#32)) &&
    knownToneEffect s (s.mem.readWord (r + 32#32)) &&
    knownToneEffect s (s.mem.readWord (r + 44#32))

/-- The checks of R111 on `n` records from address `r` on, ascending. -/
def recordsAccepted (s : State) : Nat → Word32 → Bool
  | 0, _ => true
  | n + 1, r => recordAccepted s r && recordsAccepted s n (r + 64#32)

/-- PLAY phase 1, validation (R111). -/
def playValid (base : Word32) (len : BitVec 24) (s : State) : Bool :=
  lengthOk len && addressOk base len && recordsAccepted s (recordCount len) base

/-- PLAY phase 3 before LOAD: the superseded sequence is released and the new one installed (R112, R119). -/
def installSequence (base : Word32) (len : BitVec 24) (s : State) : State :=
  { (if s.active then emitRelease s.seqBase s else s) with
    ctrlHold := none
    seqBase := base
    seqCount := BitVec.ofNat 18 (recordCount len)
    pos := 0#18
    active := true }

/-- PLAY phase 3, install (R112). -/
def playInstall (base : Word32) (len : BitVec 24) (s : State) : Except Fault State :=
  match load (installSequence base len s) with
  | .error f => .error f
  | .ok t => .ok (respond .control .ok 0#32 t)

/-- PLAY phase 2, hold: the gate is not free (R203). -/
def playHold (base : Word32) (len : BitVec 24) (s : State) : State := { s with ctrlHold := some ⟨base, len⟩ }

/-- PLAY (R110). With `CTRL_HOLD` = `none` the word is newly issued: it fails at once, installs, or becomes held.
With `CTRL_HOLD` = `play(base, len)` this is the install of the held PLAY, enabled when `GATE` = `FREE` (entry 13). -/
def execPlay (base : Word32) (len : BitVec 24) (s : State) : Host.Outcome State Fault Refusal :=
  match s.ctrlHold with
  | none =>
    if playValid base len s then
      match s.gate with
      | .free => finish (playInstall base len s)
      | .render => .next (playHold base len s)
    else .next (raiseInvalidParameter s)
  | some h =>
    if h = ⟨base, len⟩ ∧ s.gate = .free then finish (playInstall base len s) else .refused .notEnabled

/-! ## EFFECT (R90, R114) -/

/-- EFFECT: LOAD of the record `r` that stands at `POS` (entry 14). A record stands there while the block is active
and the sequence is not exhausted. -/
def execEffect (r : Effect) (s : State) : Host.Outcome State Fault Refusal :=
  if s.active && s.pos != s.seqCount then finish (runRecord r s) else .refused .notEnabled

end Sys2Proof.Machine
end

