-- ==== Sys2Proof/Machine/Tick.lean ====
section
/-! DEFINITION. MODULATE (`42_tone_effect.md` R144) and the sample TICK (`43_sample_tick.md` R150 to R156). -/

namespace Sys2Proof.Machine

open Sys2Proof

/-- One slot of MODULATE: an absent effect is skipped (R143, R144). -/
def applyFx (U : Units) (b : FxBinding) (s : State) : State :=
  if b.sel = 0#32 then s
  else
    { s with
      freq := (U.fx b.sel s.freq s.vol b.p0 b.p1 s.stepIndex s.e.steps).freq
      vol := (U.fx b.sel s.freq s.vol b.p0 b.p1 s.stepIndex s.e.steps).vol }

/-- MODULATE: slots 0, 1, 2 in this order, each seeing the ones before it (R144). -/
def modulate (U : Units) (s : State) : State :=
  applyFx U s.e.fx2 (applyFx U s.e.fx1 (applyFx U s.e.fx0 s))

/-- `STEP <- STEP + 1` at a step boundary (R152). -/
def enterStep (s : State) : State := { s with stepIndex := s.stepIndex + 1#32 }

/-- TICK part 1: step scheduling and modulation (R152). -/
def tickSchedule (U : Units) (s : State) : State :=
  if atStepBoundary s then modulate U (enterStep s)
  else if atEffectStart s then modulate U s
  else s

/-- The sample word of TICK part 2 (R154). -/
def sampleWord (U : Units) (s : State) : BitVec 16 :=
  maskSample (scale (U.tp s.e.tpSel s.e.tpParam (phaseIndex s.phase)) s.vol s.sampleRange) s.orMask

/-- TICK part 2: waveform, envelope, clip, mask (R154). -/
def tickSample (U : Units) (s : State) : State :=
  { emitSample (sampleWord U s) s with pullCount := s.pullCount + 1#31 }

/-- TICK part 3: phase accumulation, modulo 2^32 (R155). -/
def tickPhase (s : State) : State := { s with phase := s.phase + ftw s.freq s.sampleRate }

/-- `SW <- SW + 1` (R156). -/
def countSample (s : State) : State := { s with sw := s.sw + 1#64 }

/-- TICK part 4: sample counting and completion (R156). -/
def tickCount (s : State) : Except Fault State :=
  if effectComplete (countSample s) then nextEffect (countSample s) else .ok (countSample s)

/-- TICK: the four parts in order, one atomic step (R150). -/
def tick (U : Units) (s : State) : Except Fault State :=
  tickCount (tickPhase (tickSample U (tickSchedule U s)))

end Sys2Proof.Machine
end

