-- ==== Sys2Proof/Machine/Producer.lean ====
section
/-! DEFINITION. The buffer producer: PULL, CONNECT, GET_FORMAT (`44_buffer_producer.md`). -/

namespace Sys2Proof.Machine

open Sys2Proof

/-! ## PULL -/

/-- PULL begin (R182): take the gate and latch the size. -/
def pullBegin (s : State) : State :=
  { s with gate := .render, pullLimit := s.bufferSize, pullCount := 0#31 }

/-- PULL end (R184): answer with the count, then free the gate. -/
def pullEnd (s : State) : State :=
  { respond .stream .ok (zext32 s.pullCount) s with gate := .free }

/-- The next step of PULL with the given function units: idle form (R181), begin (R182), one TICK (R183) or end
(R184). While `GATE` = `RENDER` the stream port's command is the PULL in progress (R41; entry 13). A new PULL does
not begin before a held PLAY has installed (R206). -/
def pullStep (U : Units) (s : State) : Host.Outcome State Fault Refusal :=
  match s.gate with
  | .free =>
    if s.active then
      match s.ctrlHold with
      | none => .next (pullBegin s)
      | some _ => .refused .notEnabled
    else .next (respond .stream .ok 0#32 s)
  | .render => if pullHasWork s then finish (tick U s) else .next (pullEnd s)

/-- PULL (R180). -/
def execPull (s : State) : Host.Outcome State Fault Refusal := pullStep Config.units s

/-! ## CONNECT and GET_FORMAT -/

/-- CONNECT (R187). -/
def execConnect (a : Word32) (s : State) : Host.Outcome State Fault Refusal :=
  whenControlFree s (respond .control .ok 0#32 { s with sink := a, connected := true })

/-- GET_FORMAT (R188), answered on the port it arrived on. -/
def execGetFormat (p : Port) (s : State) : Host.Outcome State Fault Refusal :=
  match p with
  | .control => whenControlFree s (respond .control .ok (zext32 s.format) s)
  | .stream => whenStreamFree s (respond .stream .ok (zext32 s.format) s)

end Sys2Proof.Machine
end

