-- ==== Sys2Proof/Machine/Dispatch.lean ====
section
/-! DEFINITION. One arm per constructor of `Instr`. -/

namespace Sys2Proof.Machine

def exec (i : Instr) (s : State) : Host.Outcome State Fault Refusal :=
  match i with
  | .play base len => Sys2Proof.Machine.execPlay base len s
  | .setSampleRate a => Sys2Proof.Machine.execSetSampleRate a s
  | .getSampleRate => Sys2Proof.Machine.execGetSampleRate s
  | .setSampleRange a => Sys2Proof.Machine.execSetSampleRange a s
  | .getSampleRange => Sys2Proof.Machine.execGetSampleRange s
  | .setBufferSize a => Sys2Proof.Machine.execSetBufferSize a s
  | .setOrMask a => Sys2Proof.Machine.execSetOrMask a s
  | .connect a => Sys2Proof.Machine.execConnect a s
  | .getFormat p => Sys2Proof.Machine.execGetFormat p s
  | .pull => Sys2Proof.Machine.execPull s
  | .effect r => Sys2Proof.Machine.execEffect r s

end Sys2Proof.Machine
end

