-- ==== Sys2Proof/Machine/Schedule.lean ====
section
/-! DEFINITION. Which enabled step comes next (`45_concurrency_gate.md` R209): the outside world's next input, or a
step of the block's own; and how a word or a record is put where the next step takes it. -/

namespace Sys2Proof.Machine

open Sys2Proof

/-- A word on a port: decoded and run, or answered `ILLEGAL_COMMAND` in the same step (R85, R243). -/
def issueWord (p : Port) (w : Word64) (s : State) : Host.Outcome State Fault Refusal :=
  match decodeCommand p w with
  | .ok i => exec i s
  | .error _ => .next (raiseIllegalCommand p s)

/-- The port takes the word in this state (R40, R41, R206, R209). The control port takes none while a PLAY is held;
the stream port takes none during a PULL, and no new non-idle PULL before a held PLAY. -/
def portAccepts (s : State) (p : Port) (w : Word64) : Bool :=
  match p with
  | .control => s.ctrlHold.isNone
  | .stream =>
    s.gate == .free && !(s.active && s.ctrlHold.isSome && decide (decodeCommand .stream w = .ok .pull))

/-- A step of the block's own: the PULL in progress goes on, or the held PLAY installs; with neither, the block does
nothing until commanded (R209, R210). -/
def blockStep (s : State) : Host.Outcome State Fault Refusal :=
  match s.gate, s.ctrlHold with
  | .render, _ => exec .pull s
  | .free, some h => exec (.play h.base h.len) s
  | .free, none => .next s

/-- One step. A word that its port does not take waits outside the block, which goes on with its own step (U8;
entries 4, 5, 6). -/
def nextStep (s : State) : Host.Outcome State Fault Refusal :=
  match s.inputs with
  | [] => blockStep s
  | .run :: rest => blockStep { s with inputs := rest }
  | .write a bytes :: rest => .next { s with mem := s.mem.writeBytes a bytes, inputs := rest }
  | .reset :: rest => .next (applyReset { s with inputs := rest })
  | .command p w :: rest =>
    if portAccepts s p w then issueWord p w { s with inputs := rest } else blockStep s

/-- A command word as the next input, its port free to take it (entry 16). -/
def placeCommand (w : Word64) (s : State) : State :=
  match tablePort w with
  | .control => { s with ctrlHold := none, inputs := .command .control w :: s.inputs }
  | .stream => { s with ctrlHold := none, gate := .free, inputs := .command .stream w :: s.inputs }

/-- A record at address 0 of `MEM`, and as the next input the PLAY of the sequence that is this one record, free to
install: that step runs LOAD, which fetches the record (R114; entry 16). -/
def placeRecord (v : Record) (s : State) : State :=
  { s with
    ctrlHold := none
    gate := .free
    mem := s.mem.writeBytes 0#32 (recordBytes v)
    inputs := .command .control (cmdWord 0x01#8 64#24 0#32) :: s.inputs }

/-- The instruction of an opcode-table row where the next step takes it. -/
def placeTableWord (s : State) (nbits w : Nat) : State :=
  if nbits = 64 then placeCommand (BitVec.ofNat 64 w) s else placeRecord (recordOfNat w) s

end Sys2Proof.Machine
end

