-- ==== Sys2Proof/Machine/Step.lean ====
section
/-! DEFINITION. The step of the machine and the host's way of placing an instruction before it. -/

namespace Sys2Proof.Machine

/-- One step of the block or of the outside world (R209). -/
def step (s : State) : Host.Outcome State Fault Refusal := nextStep s

/-- `s` with the instruction stored where `step` takes its next instruction (entry 16). -/
def State.withFetchWord (s : State) (nbits w : Nat) : State := placeTableWord s nbits w

end Sys2Proof.Machine
end

