-- ==== Sys2Proof/Safety.lean ====
section
/-! DEFINITION. What counts as a safe run, in the terms claims use: the invariant of R44 to R46, the host's duty of
R74, the step schedule of R158, the sequences PLAY accepts (R111), and PULL as one function (R185). -/

namespace Sys2Proof.Machine

open Sys2Proof

/-! ## Invariants -/

/-- What holds between steps (R21, R23, R29, R33, R35, R36, R44, R45, R46, R64, R65, R184). -/
structure State.Inv (s : State) : Prop where
  /-- Memory is in its canonical form. -/
  mem_wf : s.mem.wf = true
  /-- R21: legal values of `SAMPLE_RATE`. -/
  rate_pos : 1 ≤ s.sampleRate.toNat
  /-- R23: legal values of `BUFFER_SIZE`. -/
  size_pos : 1 ≤ s.bufferSize.toNat
  /-- R29, R44. -/
  pos_lt : s.active = true → s.pos.toNat < s.seqCount.toNat
  /-- R35, R44; with it `SN` >= 1. -/
  sw_lt : s.active = true → s.sw.toNat < s.sn.toNat
  /-- R33, R44; with it `E.steps` >= 1. -/
  step_lt : s.active = true → s.stepIndex.toNat < s.e.steps.toNat
  /-- R34, R117. -/
  sps_eq : s.active = true → s.sps.toNat = s.sn.toNat / s.e.steps.toNat
  /-- R44: the handles of `E` are in the tables. -/
  latch_usable : s.active = true → recordUsable s s.e = true
  /-- R36, R171. -/
  sn_bound : s.sn.toNat < 2 ^ 54
  /-- R64, R65: the installed sequence is aligned and does not wrap. -/
  seq_placed : s.active = true →
    s.seqBase.toNat % 4 = 0 ∧ s.seqBase.toNat + 64 * s.seqCount.toNat ≤ 2 ^ 32
  /-- R45: after a sequence was played to its end (and at reset). -/
  idle_done : s.active = false → s.pos = s.seqCount ∧ s.sw = s.sn
  /-- R39, R46. -/
  pull_bounds : s.gate = .render →
    1 ≤ s.pullLimit.toNat ∧ s.pullCount.toNat ≤ s.pullLimit.toNat
  /-- R184: a begun PULL emits at least one sample before the sequence can run out. -/
  pull_started : s.gate = .render → s.active = false → 1 ≤ s.pullCount.toNat
  /-- R40: what is held passed validation. -/
  held_placed : ∀ h, s.ctrlHold = some h → lengthOk h.len = true ∧ addressOk h.base h.len = true

/-- The step schedule (R152, R153, R158): `STEP` is the number of the step interval of the last sample emitted. -/
def State.OnSchedule (s : State) : Prop :=
  s.active = true →
    s.stepIndex.toNat =
      if s.sps.toNat = 0 then 0 else min ((s.sw.toNat - 1) / s.sps.toNat) (s.e.steps.toNat - 1)

/-! ## The host's duty -/

/-- The block holds the byte: it belongs to the installed sequence or to a held PLAY's (R74). -/
def State.HoldsByte (s : State) (x : Nat) : Prop :=
  (s.active = true ∧ s.seqBase.toNat ≤ x ∧ x < s.seqBase.toNat + 64 * s.seqCount.toNat) ∨
  ∃ h, s.ctrlHold = some h ∧ h.base.toNat ≤ x ∧ x < h.base.toNat + h.len.toNat

/-- The next input, if it is a host write, writes no byte the block holds (R74). -/
def State.HostLawful (s : State) : Prop :=
  ∀ a bytes rest, s.inputs = .write a bytes :: rest →
    ∀ k, k < bytes.length → ¬ s.HoldsByte (a + BitVec.ofNat 32 k).toNat

/-- The sequences the block holds are in memory as PLAY accepted them, and the latch is the record at `POS` (R44). -/
structure State.SequencesIntact (s : State) : Prop where
  active_ok : s.active = true → recordsAccepted s s.seqCount.toNat s.seqBase = true
  latch_current : s.active = true → recordAtPos s = s.e
  held_ok : ∀ h, s.ctrlHold = some h → recordsAccepted s (recordCount h.len) h.base = true

/-! ## PLAY's acceptance in the spec's words -/

/-- The record at address `r` passes the checks of R111. -/
def RecordAcceptable (s : State) (r : Word32) : Prop :=
  s.mem.readWord (r + 56#32) ≠ 0#32 ∧
  s.mem.readWord (r + 12#32) ∈ s.tpKeys ∧
  ∀ j < 3, s.mem.readWord (r + 20#32 + BitVec.ofNat 32 (12 * j)) = 0#32 ∨
    s.mem.readWord (r + 20#32 + BitVec.ofNat 32 (12 * j)) ∈ s.fxKeys

/-- The operands and the sequence pass validation (R111). -/
def PlayAcceptable (s : State) (base : Word32) (len : BitVec 24) : Prop :=
  len.toNat ≠ 0 ∧ len.toNat % 64 = 0 ∧ base.toNat % 4 = 0 ∧ base.toNat + len.toNat ≤ 2 ^ 32 ∧
  ∀ i < len.toNat / 64, RecordAcceptable s (base + BitVec.ofNat 32 (64 * i))

/-! ## PULL as one function (R185) -/

/-- At most `n` ticks, fewer if the sequence runs out. -/
def pullTicks (U : Units) : Nat → State → Except Fault State
  | 0, s => .ok s
  | n + 1, s =>
    if s.active then
      match tick U s with
      | .ok t => pullTicks U n t
      | .error f => .error f
    else .ok s

/-- "PULL (no interleaving)" of R185. -/
def pullAtOnce (s : State) : Host.Outcome State Fault Refusal :=
  if s.active then
    match pullTicks Config.units s.bufferSize.toNat (pullBegin s) with
    | .ok t => .next (pullEnd t)
    | .error f => .fault f
  else .next (respond .stream .ok 0#32 s)

/-! ## Reading the output history -/

/-- The number of sample words in a history. -/
def sampleCount (out : List Output) : Nat :=
  (out.filter fun o => match o with | .sample _ => true | _ => false).length

/-- The number of release events in a history. -/
def releaseCount (out : List Output) : Nat :=
  (out.filter fun o => match o with | .release _ => true | _ => false).length

/-- The number of sequences the block holds a reference to: 1 while `ACTIVE`, else 0 (R27). -/
def heldSequences (s : State) : Nat := s.active.toNat

/-! ## What two states share (R20, R48) -/

/-- The configuration registers, `SINK` and `CONNECTED` (R21 to R26). -/
def SameConfiguration (s t : State) : Prop :=
  t.sampleRate = s.sampleRate ∧ t.sampleRange = s.sampleRange ∧ t.bufferSize = s.bufferSize ∧
  t.orMask = s.orMask ∧ t.sink = s.sink ∧ t.connected = s.connected

/-- The queue registers, the render registers and the latch (R27 to R37). -/
def SameRendering (s t : State) : Prop :=
  t.active = s.active ∧ t.seqBase = s.seqBase ∧ t.seqCount = s.seqCount ∧ t.pos = s.pos ∧
  t.freq = s.freq ∧ t.vol = s.vol ∧ t.phase = s.phase ∧ t.stepIndex = s.stepIndex ∧
  t.sps = s.sps ∧ t.sw = s.sw ∧ t.sn = s.sn ∧ t.e = s.e

/-- The gate and the progress of a PULL (R38, R39). -/
def SameGate (s t : State) : Prop :=
  t.gate = s.gate ∧ t.pullLimit = s.pullLimit ∧ t.pullCount = s.pullCount

/-- What no command writes: every byte of `MEM`, the tables, and the outside world's inputs (R43, R69). -/
def SameEnvironment (s t : State) : Prop :=
  (∀ x, t.mem.readByte x = s.mem.readByte x) ∧ t.tpKeys = s.tpKeys ∧ t.fxKeys = s.fxKeys ∧ t.inputs = s.inputs

end Sys2Proof.Machine
end

