-- ==== Sys2Proof/Certificates/Slice0/Obligations.lean ====
section
/-! DEFINITION. The statements for the provers, each from the spec's numbered rules. -/

open Sys2Proof Sys2Proof.Machine

/-! ## Encoding -/

/-- R81, R82, R90: decoding what the encoder writes gives the instruction back, every operand at every value. -/
def Obligations.DecodeOfEncodeIsIdentity : Prop :=
  ∀ i : Instr, decode (encode i) = .ok i

/-- R81, R82, R85: a word that is a command on its port is that command's encoding there; no bit of it is dropped. -/
def Obligations.CommandWordsHaveOneMeaning : Prop :=
  ∀ (p : Port) (w : Word64) (i : Instr), decodeCommand p w = .ok i → encode i = .command p w

/-- R84, R85: a word is illegal exactly in the cases (a), (b), (c); an illegal word adds only its response, and any
other word runs the command it is. -/
def Obligations.IllegalWordsAnswerIllegalCommand : Prop :=
  ∀ (p : Port) (w : Word64) (s : State),
    let op := w.toNat / 2 ^ 56
    let b := w.toNat / 2 ^ 32 % 2 ^ 24
    let a := w.toNat % 2 ^ 32
    let reserved := op = 0 ∨ 0x0B ≤ op
    let nonzero := (op ≠ 1 ∧ b ≠ 0) ∨ ((op = 3 ∨ op = 5 ∨ op = 9 ∨ op = 10) ∧ a ≠ 0)
    let wrongPort := (p = .control ∧ op = 10) ∨ (p = .stream ∧ op < 9)
    ((reserved ∨ nonzero ∨ wrongPort) →
      issueWord p w s = .next { s with out := s.out ++ [.response p 0x0200000000000000#64] }) ∧
    (¬ (reserved ∨ nonzero ∨ wrongPort) →
      ∃ i, decodeCommand p w = .ok i ∧ issueWord p w s = exec i s)

/-- R62, R66, R90: a record stored little-endian at an address of a canonical memory is fetched as the effect whose
sixteen words it is. The rules cover a 4-aligned address of at most 2^32 - 64; at every other address the statement
rests on the model's choice that addresses are not checked and wrap modulo 2^32 (entry 18). -/
def Obligations.StoredRecordIsFetched : Prop :=
  ∀ (m : Memory) (v : Record) (a : Word32), m.wf = true →
    (m.writeBytes a (recordBytes v)).readRecord a = decodeRecord v

/-- Words of `95_test_vectors.md` section 3.1, one for every command, and two illegal ones. -/
def Obligations.KnownWordsDecode : Prop :=
  decodeCommand .control 0x0100004020000000#64 = .ok (.play 0x20000000#32 64#24) ∧
  decodeCommand .control 0x020000000000BB80#64 = .ok (.setSampleRate 48000#32) ∧
  decodeCommand .control 0x0300000000000000#64 = .ok .getSampleRate ∧
  decodeCommand .control 0x04000000000000FF#64 = .ok (.setSampleRange 255#32) ∧
  decodeCommand .control 0x0500000000000000#64 = .ok .getSampleRange ∧
  decodeCommand .control 0x0600000000000004#64 = .ok (.setBufferSize 4#32) ∧
  decodeCommand .control 0x0700000000008000#64 = .ok (.setOrMask 0x8000#32) ∧
  decodeCommand .control 0x0800000000001234#64 = .ok (.connect 0x1234#32) ∧
  decodeCommand .stream 0x0900000000000000#64 = .ok (.getFormat .stream) ∧
  decodeCommand .stream 0x0A00000000000000#64 = .ok .pull ∧
  decodeCommand .control 0x0A00000000000000#64 = .error .wrongPort ∧
  decodeCommand .control 0x0B00000000000000#64 = .error .reservedOpcode

/-! ## The step -/

/-- R209, R40, R41, R206: a word its port takes is decoded and run in the same step, and leaves the input list. The
list itself is the model's choice (entry 4). -/
def Obligations.StepRunsAcceptedWord : Prop :=
  ∀ (s : State) (p : Port) (w : Word64) (rest : List Input) (i : Instr),
    s.inputs = .command p w :: rest → decodeCommand p w = .ok i →
    (p = .control → s.ctrlHold = none) →
    (p = .stream → s.gate = .free ∧ (i = .pull → s.active = true → s.ctrlHold = none)) →
    step s = exec i { s with inputs := rest }

/-- R243: an illegal word is answered on its own port in the step it was issued, the gate not consulted on the
control port; nothing else changes. -/
def Obligations.StepAnswersIllegalWord : Prop :=
  ∀ (s : State) (p : Port) (w : Word64) (rest : List Input) (c : IllegalCause),
    s.inputs = .command p w :: rest → decodeCommand p w = .error c →
    (p = .control → s.ctrlHold = none) → (p = .stream → s.gate = .free) →
    step s = .next { s with inputs := rest, out := s.out ++ [.response p 0x0200000000000000#64] }

/-- R183, R184, R209: with no input, or told to run, the block goes on with the PULL in progress; a stream word
offered meanwhile stays where it is (U8; the input list is the model's choice, entries 4 to 6). -/
def Obligations.StepContinuesPull : Prop :=
  ∀ (s : State), s.gate = .render →
    (s.inputs = [] → step s = exec .pull s) ∧
    (∀ rest, s.inputs = .run :: rest → step s = exec .pull { s with inputs := rest }) ∧
    (∀ w rest, s.inputs = .command .stream w :: rest → step s = exec .pull s) ∧
    (∀ w rest, s.inputs = .command .control w :: rest → s.ctrlHold ≠ none → step s = exec .pull s)

/-- R206, R40: while a PLAY is held and the gate is free, the held PLAY installs before a new non-idle PULL begins and
before the control port takes a word; the word stays offered (the input list is the model's choice, entries 4, 6). -/
def Obligations.HeldPlayInstallsFirst : Prop :=
  ∀ (s : State) (h : HeldPlay) (rest : List Input), s.ctrlHold = some h → s.gate = .free →
    (s.active = true → s.inputs = .command .stream 0x0A00000000000000#64 :: rest →
      step s = exec (.play h.base h.len) s) ∧
    (∀ w, s.inputs = .command .control w :: rest → step s = exec (.play h.base h.len) s)

/-- R209, R210: with the gate free, a block that is given nothing to do keeps its state, or installs the PLAY it holds.
The empty input list is the model's form of "both ports are quiet" (entry 5), and `run` of a step of the block's own
before the next input, which takes nothing but the `run` (entries 4, 5). -/
def Obligations.QuietBlockStep : Prop :=
  ∀ (s : State), s.gate = .free →
    (s.inputs = [] →
      (s.ctrlHold = none → step s = .next s) ∧
      (∀ h, s.ctrlHold = some h → step s = exec (.play h.base h.len) s)) ∧
    (∀ rest, s.inputs = .run :: rest →
      (s.ctrlHold = none → step s = .next { s with inputs := rest }) ∧
      (∀ h, s.ctrlHold = some h → step s = exec (.play h.base h.len) { s with inputs := rest }))

/-- R66, R114: LOAD runs the record that stands at `POS`, read at `SEQ_BASE + 64*POS`. -/
def Obligations.LoadRunsRecordAtPos : Prop :=
  ∀ (s : State), s.active = true → s.pos ≠ s.seqCount →
    finish (load s) = exec (.effect (s.mem.readRecord (s.seqBase + BitVec.ofNat 32 (64 * s.pos.toNat)))) s

/-- R69, R209 (last row; entry 7): a host write is a step that stores exactly its bytes and changes nothing else. Byte
`k` goes to `a + k`; where that passes address 2^32 - 1 it wraps, which is the model's choice (entry 18). -/
def Obligations.HostWriteStoresItsBytes : Prop :=
  ∀ (s : State) (a : Word32) (bytes : List Byte) (rest : List Input),
    s.mem.wf = true → s.inputs = .write a bytes :: rest → bytes.length ≤ 2 ^ 32 →
    ∃ m, step s = .next { s with mem := m, inputs := rest } ∧
      (∀ k (hk : k < bytes.length), m.readByte (a + BitVec.ofNat 32 k).toNat = bytes[k]) ∧
      (∀ x, (∀ k, k < bytes.length → x ≠ (a + BitVec.ofNat 32 k).toNat) → m.readByte x = s.mem.readByte x)

/-! ## Reset -/

/-- R270: every register at its reset value, `FORMAT` 3; R271: no output. -/
def Obligations.ResetLeavesResetValues : Prop :=
  State.reset.sampleRate = 44100#31 ∧ State.reset.sampleRange = 1023#16 ∧ State.reset.bufferSize = 512#31 ∧
  State.reset.orMask = 0#16 ∧ State.reset.format = 3#8 ∧ State.reset.sink = 0#32 ∧
  State.reset.connected = false ∧ State.reset.active = false ∧ State.reset.seqBase = 0#32 ∧
  State.reset.seqCount = 0#18 ∧ State.reset.pos = 0#18 ∧ State.reset.freq = 0x00000000#32 ∧
  State.reset.vol = 0x00000000#32 ∧ State.reset.phase = 0#32 ∧ State.reset.stepIndex = 0#32 ∧
  State.reset.sps = 0#64 ∧ State.reset.sw = 0#64 ∧ State.reset.sn = 0#64 ∧
  State.reset.e.toRecord = #v[0, 0, 0, 0, 0, 0, 0, 0, 0, 0, 0, 0, 0, 0, 0, 0] ∧
  State.reset.gate = .free ∧ State.reset.pullLimit = 0#31 ∧ State.reset.pullCount = 0#31 ∧
  State.reset.ctrlHold = none ∧ State.reset.out = []

/-- R271, R272: reset in any state puts every register back, emits nothing, and touches neither `MEM` nor the
tables. That the rest of the input list and the history stay is the model's choice (entry 9). -/
def Obligations.ResetInputRestoresRegisters : Prop :=
  ∀ (s : State) (rest : List Input), s.inputs = .reset :: rest →
    step s = .next { State.reset with
      tpKeys := s.tpKeys, fxKeys := s.fxKeys, mem := s.mem, inputs := rest, out := s.out }

/-! ## Configuration commands, CONNECT, GET_FORMAT: result and frame in one equality -/

/-- R216. -/
def Obligations.SetSampleRateResult : Prop :=
  ∀ (a : Word32) (s : State), s.ctrlHold = none →
    (0 < a.toInt → exec (.setSampleRate a) s = .next { s with
      sampleRate := BitVec.ofNat 31 a.toNat, out := s.out ++ [.response .control 0#64] }) ∧
    (a.toInt ≤ 0 → exec (.setSampleRate a) s = .next { s with
      out := s.out ++ [.response .control 0x0100000000000000#64] })

/-- R217. -/
def Obligations.GetSampleRateResult : Prop :=
  ∀ (s : State), s.ctrlHold = none →
    exec .getSampleRate s = .next { s with
      out := s.out ++ [.response .control (BitVec.ofNat 64 s.sampleRate.toNat)] }

/-- R218. -/
def Obligations.SetSampleRangeResult : Prop :=
  ∀ (a : Word32) (s : State), s.ctrlHold = none →
    (a.toNat < 2 ^ 16 → exec (.setSampleRange a) s = .next { s with
      sampleRange := BitVec.ofNat 16 a.toNat, out := s.out ++ [.response .control 0#64] }) ∧
    (2 ^ 16 ≤ a.toNat → exec (.setSampleRange a) s = .next { s with
      out := s.out ++ [.response .control 0x0100000000000000#64] })

/-- R219. -/
def Obligations.GetSampleRangeResult : Prop :=
  ∀ (s : State), s.ctrlHold = none →
    exec .getSampleRange s = .next { s with
      out := s.out ++ [.response .control (BitVec.ofNat 64 s.sampleRange.toNat)] }

/-- R220. -/
def Obligations.SetBufferSizeResult : Prop :=
  ∀ (a : Word32) (s : State), s.ctrlHold = none →
    (0 < a.toInt → exec (.setBufferSize a) s = .next { s with
      bufferSize := BitVec.ofNat 31 a.toNat, out := s.out ++ [.response .control 0#64] }) ∧
    (a.toInt ≤ 0 → exec (.setBufferSize a) s = .next { s with
      out := s.out ++ [.response .control 0x0100000000000000#64] })

/-- R221. -/
def Obligations.SetOrMaskResult : Prop :=
  ∀ (a : Word32) (s : State), s.ctrlHold = none →
    (a.toNat < 2 ^ 16 → exec (.setOrMask a) s = .next { s with
      orMask := BitVec.ofNat 16 a.toNat, out := s.out ++ [.response .control 0#64] }) ∧
    (2 ^ 16 ≤ a.toNat → exec (.setOrMask a) s = .next { s with
      out := s.out ++ [.response .control 0x0100000000000000#64] })

/-- R187. -/
def Obligations.ConnectResult : Prop :=
  ∀ (a : Word32) (s : State), s.ctrlHold = none →
    exec (.connect a) s = .next { s with
      sink := a, connected := true, out := s.out ++ [.response .control 0#64] }

/-- R188, R84: legal on both ports, answered on the port it arrived on (entry 11). -/
def Obligations.GetFormatResult : Prop :=
  ∀ (p : Port) (s : State), (p = .control → s.ctrlHold = none) → (p = .stream → s.gate = .free) →
    exec (.getFormat p) s = .next { s with out := s.out ++ [.response p 3#64] }

/-! ## PLAY -/

/-- R111, R204: a PLAY that fails validation answers `INVALID_PARAMETER` at once, whatever `GATE` is, and changes
nothing else. -/
def Obligations.InvalidPlayAnswersAtOnce : Prop :=
  ∀ (base : Word32) (len : BitVec 24) (s : State), s.ctrlHold = none → ¬ PlayAcceptable s base len →
    exec (.play base len) s = .next { s with out := s.out ++ [.response .control 0x0100000000000000#64] }

/-- R203: a PLAY that passes validation while `GATE` = `RENDER` is recorded in `CTRL_HOLD`, with no response. -/
def Obligations.PlayIsHeldDuringPull : Prop :=
  ∀ (base : Word32) (len : BitVec 24) (s : State),
    s.ctrlHold = none → s.gate = .render → PlayAcceptable s base len →
    exec (.play base len) s = .next { s with ctrlHold := some ⟨base, len⟩ }

/-- R112, R114, R116, R119: a PLAY (new, or the held one) whose sequence is acceptable installs it when the gate is
free: the superseded sequence is released first, the leading `n` records without samples are skipped, record `k` is
the last one latched, and if all were skipped the new sequence is released too; then the response. -/
def Obligations.PlayInstallsSequence : Prop :=
  ∀ (base : Word32) (len : BitVec 24) (s : State),
    (s.ctrlHold = none ∨ s.ctrlHold = some ⟨base, len⟩) → s.gate = .free → PlayAcceptable s base len →
    let count := len.toNat / 64
    let record := fun i : Nat => s.mem.readRecord (base + BitVec.ofNat 32 (64 * i))
    let samples := fun i : Nat => ((record i).duration.toNat * s.sampleRate.toNat + 500) / 1000
    ∃ n k : Nat, n ≤ count ∧ (∀ i < n, samples i = 0) ∧
      (n < count → k = n ∧ samples n ≠ 0) ∧ (n = count → k + 1 = count) ∧
      exec (.play base len) s = .next { s with
        ctrlHold := none
        seqBase := base
        seqCount := BitVec.ofNat 18 count
        pos := BitVec.ofNat 18 n
        active := decide (n < count)
        e := record k
        freq := (record k).freq
        vol := (record k).vol
        phase := 0#32
        stepIndex := 0#32
        sw := 0#64
        sn := BitVec.ofNat 64 (samples k)
        sps := BitVec.ofNat 64 (samples k / (record k).steps.toNat)
        out := s.out ++ (if s.active then [.release s.seqBase] else []) ++
          (if n < count then [] else [.release base]) ++ [.response .control 0#64] }

/-! ## PULL -/

/-- R181: an idle PULL answers with the empty burst and does not take the gate. -/
def Obligations.IdlePullAnswersEmptyBurst : Prop :=
  ∀ (s : State), s.gate = .free → s.active = false →
    exec .pull s = .next { s with out := s.out ++ [.response .stream 0#64] }

/-- R182: PULL begin takes the gate and latches `BUFFER_SIZE`, with no output. -/
def Obligations.PullBeginTakesGate : Prop :=
  ∀ (s : State), s.gate = .free → s.active = true → s.ctrlHold = none →
    exec .pull s = .next { s with gate := .render, pullLimit := s.bufferSize, pullCount := 0#31 }

/-- R184: PULL end (the next step of the PULL in progress, entry 13) answers with the number of samples emitted and frees the gate. -/
def Obligations.PullEndFreesGate : Prop :=
  ∀ (s : State), s.gate = .render → (s.pullCount = s.pullLimit ∨ s.active = false) →
    exec .pull s = .next { s with
      gate := .free, out := s.out ++ [.response .stream (BitVec.ofNat 64 s.pullCount.toNat)] }

/-- R152 to R156: a TICK in the middle of an effect. `step` is `STEP` after part 1, `m` the state after MODULATE. -/
def Obligations.TickWithinEffect : Prop :=
  ∀ (s : State), s.gate = .render → s.active = true → s.pullCount.toNat < s.pullLimit.toNat →
    s.sw + 1#64 ≠ s.sn →
    let boundary := s.sw.toNat ≠ 0 ∧ s.sps.toNat ≠ 0 ∧ s.sw.toNat % s.sps.toNat = 0 ∧
      s.stepIndex.toNat + 1 < s.e.steps.toNat
    let s1 := if boundary then { s with stepIndex := s.stepIndex + 1#32 } else s
    let m := if boundary ∨ s.sw.toNat = 0 then modulate Config.units s1 else s1
    exec .pull s = .next { s with
      stepIndex := s1.stepIndex
      freq := m.freq
      vol := m.vol
      phase := s.phase + ftw m.freq s.sampleRate
      sw := s.sw + 1#64
      pullCount := s.pullCount + 1#31
      out := s.out ++ [.sample
        (scale (Config.tonePrint s.e.tpSel s.e.tpParam (s.phase.extractLsb' 22 10)) m.vol s.sampleRange
          ||| s.orMask)] }

/-- R156, R113, R114: the TICK that reaches `SN` emits its sample, then either ends the sequence (idle, release
event) or runs the next record in the same step. -/
def Obligations.TickCompletesEffect : Prop :=
  ∀ (s : State), s.gate = .render → s.active = true → s.pullCount.toNat < s.pullLimit.toNat →
    s.sw + 1#64 = s.sn →
    let boundary := s.sw.toNat ≠ 0 ∧ s.sps.toNat ≠ 0 ∧ s.sw.toNat % s.sps.toNat = 0 ∧
      s.stepIndex.toNat + 1 < s.e.steps.toNat
    let s1 := if boundary then { s with stepIndex := s.stepIndex + 1#32 } else s
    let m := if boundary ∨ s.sw.toNat = 0 then modulate Config.units s1 else s1
    let t := { s with
      stepIndex := s1.stepIndex
      freq := m.freq
      vol := m.vol
      phase := s.phase + ftw m.freq s.sampleRate
      sw := s.sn
      pullCount := s.pullCount + 1#31
      pos := s.pos + 1#18
      out := s.out ++ [.sample
        (scale (Config.tonePrint s.e.tpSel s.e.tpParam (s.phase.extractLsb' 22 10)) m.vol s.sampleRange
          ||| s.orMask)] }
    (s.pos + 1#18 = s.seqCount →
      exec .pull s = .next { t with active := false, out := t.out ++ [.release s.seqBase] }) ∧
    (s.pos + 1#18 ≠ s.seqCount → exec .pull s = exec (.effect (recordAtPos t)) t)

/-- R144, R143: MODULATE applies the present slots 0, 1, 2 in this order, each to the result of the ones before, and
changes only `FREQ` and `VOL`. -/
def Obligations.ModulateComposesInOrder : Prop :=
  ∀ (U : Units) (s : State),
    let apply := fun (b : FxBinding) (x : FxResult) =>
      if b.sel = 0#32 then x else U.fx b.sel x.freq x.vol b.p0 b.p1 s.stepIndex s.e.steps
    let r := apply s.e.fx2 (apply s.e.fx1 (apply s.e.fx0 ⟨s.freq, s.vol⟩))
    modulate U s = { s with freq := r.freq, vol := r.vol }

/-! ## EFFECT -/

/-- R114, R115, R117, R116: running the record (entry 14) at `POS` latches it and resets the render state; a record without
samples is passed over: the next record runs, or the sequence ends with its release event. -/
def Obligations.EffectIsLoaded : Prop :=
  ∀ (r : Effect) (s : State), s.active = true → s.pos ≠ s.seqCount →
    r.steps ≠ 0#32 → r.tpSel ∈ s.tpKeys →
    (∀ b ∈ [r.fx0, r.fx1, r.fx2], b.sel = 0#32 ∨ b.sel ∈ s.fxKeys) →
    let samples := (r.duration.toNat * s.sampleRate.toNat + 500) / 1000
    let t := { s with
      e := r
      freq := r.freq
      vol := r.vol
      phase := 0#32
      stepIndex := 0#32
      sw := 0#64
      sn := BitVec.ofNat 64 samples
      sps := BitVec.ofNat 64 (samples / r.steps.toNat) }
    (samples ≠ 0 → exec (.effect r) s = .next t) ∧
    (samples = 0 → s.pos + 1#18 = s.seqCount →
      exec (.effect r) s = .next { t with
        pos := s.pos + 1#18, active := false, out := s.out ++ [.release s.seqBase] }) ∧
    (samples = 0 → s.pos + 1#18 ≠ s.seqCount →
      exec (.effect r) s =
        exec (.effect (recordAtPos { t with pos := s.pos + 1#18 })) { t with pos := s.pos + 1#18 })

/-- R75, U3 (entries 8, 14): a record with `steps` = 0 or an unknown handle has no defined LOAD and is a fault. -/
def Obligations.UndefinedRecordFaults : Prop :=
  ∀ (r : Effect) (s : State), s.active = true → s.pos ≠ s.seqCount →
    (r.steps = 0#32 ∨ r.tpSel ∉ s.tpKeys ∨
      ∃ b ∈ [r.fx0, r.fx1, r.fx2], b.sel ≠ 0#32 ∧ b.sel ∉ s.fxKeys) →
    exec (.effect r) s = .fault .invalidRecord

/-! ## Arithmetic -/

/-- R170: what a pattern is, and the value of a finite one (binary32 is the spec's general knowledge G4, entry 19). -/
def Obligations.FvalReadsBinary32 : Prop :=
  ∀ b : Word32,
    let sg : ℚ := if b.toNat / 2 ^ 31 = 1 then -1 else 1
    let ex : ℕ := b.toNat / 2 ^ 23 % 2 ^ 8
    let m : ℕ := b.toNat % 2 ^ 23
    (ex = 255 → m ≠ 0 → classify b = .nan) ∧
    (ex = 255 → m = 0 → classify b = if b.toNat / 2 ^ 31 = 1 then .negInf else .posInf) ∧
    (ex = 0 → fval b = sg * m * (2 : ℚ) ^ (-149 : ℤ)) ∧
    (1 ≤ ex → ex ≤ 254 → fval b = sg * (2 ^ 23 + m) * (2 : ℚ) ^ ((ex : ℤ) - 150))

/-- R172: 0 for NaN, the infinities and any value that is not positive; else the floor of the exact quotient,
modulo 2^32. -/
def Obligations.TuningWordIsExactFloor : Prop :=
  ∀ (fb : Word32) (r : BitVec 31), 1 ≤ r.toNat →
    (fb.toNat / 2 ^ 23 % 2 ^ 8 = 255 → ftw fb r = 0#32) ∧
    (fb.toNat / 2 ^ 23 % 2 ^ 8 ≠ 255 → fval fb ≤ 0 → ftw fb r = 0#32) ∧
    (fb.toNat / 2 ^ 23 % 2 ^ 8 ≠ 255 → 0 < fval fb →
      ((ftw fb r).toNat : ℤ) = ⌊fval fb * 2 ^ 32 / (r.toNat : ℚ)⌋ % 2 ^ 32)

/-- R174: `scale` for every pattern, and its range (1023 is the spec's general knowledge G2, entry 19). -/
def Obligations.ScaleIsClippedFloor : Prop :=
  ∀ (raw : BitVec 16) (vb : Word32) (g : BitVec 16),
    let ex : ℕ := vb.toNat / 2 ^ 23 % 2 ^ 8
    let m : ℕ := vb.toNat % 2 ^ 23
    (ex = 255 → m ≠ 0 → scale raw vb g = 0#16) ∧
    (vb = 0xFF800000#32 → scale raw vb g = 0#16) ∧
    (vb = 0x7F800000#32 → scale raw vb g = if 0 < raw.toNat then g else 0#16) ∧
    (ex ≠ 255 → fval vb ≤ 0 → scale raw vb g = 0#16) ∧
    (ex ≠ 255 → 0 < fval vb →
      ((scale raw vb g).toNat : ℤ) = min (g.toNat : ℤ) ⌊(raw.toNat : ℚ) * fval vb * (g.toNat : ℚ) / 1023⌋) ∧
    (scale raw vb g).toNat ≤ g.toNat

/-- R115, R36: `SN` is the exact quotient rounded half up, and stays below 2^54. -/
def Obligations.SamplesRequiredRoundsHalfUp : Prop :=
  ∀ (d : Word32) (r : BitVec 31),
    ((samplesRequired d r).toNat : ℤ) = ⌊(d.toNat : ℚ) * (r.toNat : ℚ) / 1000 + 1 / 2⌋ ∧
    (samplesRequired d r).toNat < 2 ^ 54

/-- R117: floor division; the last step has what the others leave, at least `SPS` samples. -/
def Obligations.SamplesPerStepIsFloor : Prop :=
  ∀ (n : BitVec 64) (steps : Word32), steps.toNat ≠ 0 →
    let q := (samplesPerStep n steps).toNat
    (q : ℤ) = ⌊(n.toNat : ℚ) / (steps.toNat : ℚ)⌋ ∧
    q ≤ n.toNat - (steps.toNat - 1) * q ∧ (steps.toNat - 1) * q ≤ n.toNat ∧
    (n.toNat < steps.toNat → q = 0)

/-- R173: over `k` ticks of an effect without tone effects the accumulated tuning words are never ahead of the ideal
phase `k * fval * 2^32 / SAMPLE_RATE` (in units of 2^-22 index), and behind it by less than `k` units. -/
def Obligations.PhaseTrailsIdealByLessThanTicks : Prop :=
  ∀ (U : Units) (s : State) (k : ℕ), s.Inv → s.active = true →
    s.e.fx0.sel = 0#32 → s.e.fx1.sel = 0#32 → s.e.fx2.sel = 0#32 → k < s.sn.toNat - s.sw.toNat →
    s.freq.toNat / 2 ^ 23 % 2 ^ 8 ≠ 255 → 0 < fval s.freq →
    ∃ (t : State) (acc : ℕ), pullTicks U k s = .ok t ∧ t.phase.toNat = (s.phase.toNat + acc) % 2 ^ 32 ∧
      (acc : ℚ) ≤ k * (fval s.freq * 2 ^ 32 / (s.sampleRate.toNat : ℚ)) ∧
      (1 ≤ k → k * (fval s.freq * 2 ^ 32 / (s.sampleRate.toNat : ℚ)) < acc + k)

/-- R174, R175: a TICK emits one sample first of all, the clipped value with the mask ORed in. -/
def Obligations.EmittedSampleIsClippedAndMasked : Prop :=
  ∀ (s t : State), s.gate = .render → s.active = true → s.pullCount.toNat < s.pullLimit.toNat →
    exec .pull s = .next t →
    ∃ c : BitVec 16, c.toNat ≤ s.sampleRange.toNat ∧ ∃ more,
      t.out = s.out ++ .sample (c ||| s.orMask) :: more ∧ sampleCount more = 0

/-! ## Frames -/

/-- R69, R43: no command writes `MEM`, the tables or the outside world's inputs. -/
def Obligations.CommandsNeverWriteMemory : Prop :=
  ∀ (i : Instr) (s t : State), exec i s = .next t → SameEnvironment s t

/-- R48, R200: PLAY leaves the configuration registers, the gate and the progress of a PULL unchanged. -/
def Obligations.PlayFrame : Prop :=
  ∀ (base : Word32) (len : BitVec 24) (s t : State), exec (.play base len) s = .next t →
    SameConfiguration s t ∧ SameGate s t ∧ SameEnvironment s t

/-- R48, R208(a): PULL (every form, with all the LOADs it runs) leaves the configuration, the installed sequence's
base and count, and `CTRL_HOLD` unchanged. -/
def Obligations.PullFrame : Prop :=
  ∀ (s t : State), exec .pull s = .next t →
    SameConfiguration s t ∧ t.seqBase = s.seqBase ∧ t.seqCount = s.seqCount ∧ t.ctrlHold = s.ctrlHold ∧
    SameEnvironment s t

/-- R48, R114: running a record leaves the configuration, the gate, the installed sequence and `CTRL_HOLD`
unchanged. -/
def Obligations.EffectFrame : Prop :=
  ∀ (r : Effect) (s t : State), exec (.effect r) s = .next t →
    SameConfiguration s t ∧ SameGate s t ∧ t.seqBase = s.seqBase ∧ t.seqCount = s.seqCount ∧
    t.ctrlHold = s.ctrlHold ∧ SameEnvironment s t

/-- R200, R205, R215: every command other than PLAY and PULL leaves the queue registers, the render registers, the
latch, the gate and `CTRL_HOLD` unchanged, whatever `GATE` is. -/
def Obligations.UngatedCommandsKeepRendering : Prop :=
  ∀ (i : Instr) (s t : State), (∀ b l, i ≠ .play b l) → i ≠ .pull → (∀ r, i ≠ .effect r) →
    exec i s = .next t → SameRendering s t ∧ SameGate s t ∧ t.ctrlHold = s.ctrlHold ∧ SameEnvironment s t

/-- R202: while the rendering side holds the gate, no control-port command changes the queue, the render state, the
latch or the gate; a PLAY can only become held. -/
def Obligations.NoControlCommandChangesRenderingMidBurst : Prop :=
  ∀ (i : Instr) (s t : State), s.gate = .render → .control ∈ i.ports → exec i s = .next t →
    SameRendering s t ∧ SameGate s t

/-! ## Failures and responses -/

/-- R242: a command, or a word that is none, whose response carries a code other than `OK` has produced that response
and nothing else, and has changed nothing. -/
def Obligations.FailedCommandChangesNothing : Prop :=
  ∀ (s t : State) (new : List Output),
    ((∃ i, exec i s = .next t) ∨ ∃ p w, issueWord p w s = .next t) → t.out = s.out ++ new →
    (∃ p w, .response p w ∈ new ∧ w.toNat / 2 ^ 56 ≠ 0) →
    t = { s with out := s.out ++ new } ∧ new.length = 1

/-- R86, R240: a response has status 0, 1 or 2, bits 55:32 zero, and `DATA` 0 unless the status is `OK`; it goes to a
port where the command is legal. -/
def Obligations.ResponsesHaveResponseFormat : Prop :=
  ∀ (i : Instr) (s t : State) (new : List Output) (p : Port) (w : Word64),
    exec i s = .next t → t.out = s.out ++ new → .response p w ∈ new →
    p ∈ i.ports ∧ w.toNat / 2 ^ 56 ≤ 2 ∧ w.toNat / 2 ^ 32 % 2 ^ 24 = 0 ∧
    (w.toNat / 2 ^ 56 ≠ 0 → w.toNat % 2 ^ 32 = 0)

/-! ## Which steps exist -/

/-- R209 (and R114 for the record; entries 12, 13): a meaning gives no step exactly where R209 lists none. -/
def Obligations.RefusedExactlyWhenNotEnabled : Prop :=
  ∀ (i : Instr) (s : State),
    (∃ r, exec i s = .refused r) ↔
      match i with
      | .play b l => s.ctrlHold ≠ none ∧ ¬ (s.ctrlHold = some ⟨b, l⟩ ∧ s.gate = .free)
      | .getFormat .stream => s.gate = .render
      | .pull => s.gate = .free ∧ s.active = true ∧ s.ctrlHold ≠ none
      | .effect _ => s.active = false ∨ s.pos = s.seqCount
      | _ => s.ctrlHold ≠ none

/-- R209, R210, U8: in no state does a step of the block end in a refusal. -/
def Obligations.StepNeverRefuses : Prop :=
  ∀ (s : State) (r : Refusal), step s ≠ .refused r

/-! ## Invariants -/

/-- The reset state meets the invariant and the step schedule, and holds no sequence. -/
def Obligations.ResetMeetsInvariant : Prop :=
  State.reset.Inv ∧ State.reset.OnSchedule ∧ State.reset.SequencesIntact

/-- R44, R45, R46, R35, R36: every step, whatever the outside world does, keeps the invariant. -/
def Obligations.StepKeepsInvariant : Prop :=
  ∀ (s t : State), s.Inv → step s = .next t → t.Inv

/-- R70, R114, R150: while the host keeps R74, no step faults, and the invariant and the intactness of the held
sequences are kept. -/
def Obligations.LawfulStepNeverFaults : Prop :=
  ∀ (s : State), s.Inv → s.SequencesIntact → s.HostLawful →
    ∃ t, step s = .next t ∧ t.Inv ∧ t.SequencesIntact

/-- R152, R153, R158: `STEP` is the number of the step interval the last sample lies in: boundaries fall at the
multiples of `SPS`, and there are `E.steps - 1` of them. -/
def Obligations.StepIndexFollowsSchedule : Prop :=
  ∀ (s t : State), s.Inv → s.OnSchedule → step s = .next t → t.OnSchedule

/-- R118: release events and held sequences balance: only a PLAY that installs adds one, every other command keeps
the sum, so each successful PLAY is matched by exactly one release. -/
def Obligations.ReleasesBalanceInstalls : Prop :=
  ∀ (i : Instr) (s t : State), exec i s = .next t →
    releaseCount t.out + heldSequences t = releaseCount s.out + heldSequences s +
      (match i with
       | .play b l => if s.gate = .free ∧ (s.ctrlHold = none → playValid b l s = true) then 1 else 0
       | _ => 0)

/-- R29, R121: `POS` never decreases and never passes `SEQ_COUNT`, except that PLAY starts a new sequence. -/
def Obligations.PosNeverDecreases : Prop :=
  ∀ (i : Instr) (s t : State), s.Inv → (∀ b l, i ≠ .play b l) → exec i s = .next t →
    s.pos.toNat ≤ t.pos.toNat ∧ t.pos.toNat ≤ t.seqCount.toNat

/-- R202, R208(a): from PULL begin to PULL end the installed sequence stays the same; only reset breaks it. -/
def Obligations.BurstComesFromOneSequence : Prop :=
  ∀ (s t : State), s.gate = .render → (∀ rest, s.inputs ≠ .reset :: rest) → step s = .next t →
    t.seqBase = s.seqBase ∧ t.seqCount = s.seqCount

/-! ## Whole runs -/

/-- R185: with no other input, the steps of a PULL, from its word to its response, are the one function of R185. -/
def Obligations.PullIsOneFunction : Prop :=
  ∀ (s : State), s.gate = .free → s.ctrlHold = none →
    s.inputs = [.command .stream 0x0A00000000000000#64] →
    ∃ k, k ≤ s.bufferSize.toNat + 2 ∧ Host.Core.run core k s = pullAtOnce { s with inputs := [] }

/-- R157, R156: an effect with `SW` = w emits exactly `SN` - w further samples. For every smaller number of ticks it is
still the active one, one sample was emitted at each, and `SW` counts them; the tick that makes the number full emits
its one sample too, finds `SW` = `SN` and runs NEXT, which emits none and leaves the effect's position behind. -/
def Obligations.SampleCountLaw : Prop :=
  ∀ (U : Units) (s : State), s.Inv → s.active = true →
    let left := s.sn.toNat - s.sw.toNat
    (∀ m < left, ∃ t, pullTicks U m s = .ok t ∧ t.active = true ∧ t.pos = s.pos ∧ t.e = s.e ∧ t.sn = s.sn ∧
      t.sw.toNat = s.sw.toNat + m ∧ sampleCount t.out = sampleCount s.out + m) ∧
    (∃ v, pullTicks U left s = nextEffect v ∧ v.active = true ∧ v.pos = s.pos ∧ v.e = s.e ∧ v.sn = s.sn ∧
      v.sw = s.sn ∧ sampleCount v.out = sampleCount s.out + left) ∧
    (∀ t, pullTicks U left s = .ok t →
      s.pos.toNat < t.pos.toNat ∧ sampleCount t.out = sampleCount s.out + left)

/-- R203, R207, R210: with no further input a PULL in progress ends within `PULL_LIMIT` - `PULL_COUNT` ticks and one
more step. -/
def Obligations.GateIsFreedWithinLimit : Prop :=
  ∀ (s : State), s.Inv → s.SequencesIntact → s.gate = .render → s.inputs = [] →
    ∃ k t, k ≤ s.pullLimit.toNat - s.pullCount.toNat + 1 ∧
      Host.Core.run core k s = .next t ∧ t.gate = .free ∧ t.ctrlHold = s.ctrlHold
end

