-- ==== Sys2Proof/Laws/State.lean ====
section
/-! SUPPORT. One lemma per field per named update of the state, so that no later proof unfolds a record update. -/

namespace Sys2Proof.Machine

open Sys2Proof

variable (s : State)

/-! ### respond -/

@[simp] theorem respond_sampleRate (p : Port) (st : Status) (d : Word32) : (respond p st d s).sampleRate = s.sampleRate := rfl
@[simp] theorem respond_sampleRange (p : Port) (st : Status) (d : Word32) : (respond p st d s).sampleRange = s.sampleRange := rfl
@[simp] theorem respond_bufferSize (p : Port) (st : Status) (d : Word32) : (respond p st d s).bufferSize = s.bufferSize := rfl
@[simp] theorem respond_orMask (p : Port) (st : Status) (d : Word32) : (respond p st d s).orMask = s.orMask := rfl
@[simp] theorem respond_sink (p : Port) (st : Status) (d : Word32) : (respond p st d s).sink = s.sink := rfl
@[simp] theorem respond_connected (p : Port) (st : Status) (d : Word32) : (respond p st d s).connected = s.connected := rfl
@[simp] theorem respond_active (p : Port) (st : Status) (d : Word32) : (respond p st d s).active = s.active := rfl
@[simp] theorem respond_seqBase (p : Port) (st : Status) (d : Word32) : (respond p st d s).seqBase = s.seqBase := rfl
@[simp] theorem respond_seqCount (p : Port) (st : Status) (d : Word32) : (respond p st d s).seqCount = s.seqCount := rfl
@[simp] theorem respond_pos (p : Port) (st : Status) (d : Word32) : (respond p st d s).pos = s.pos := rfl
@[simp] theorem respond_freq (p : Port) (st : Status) (d : Word32) : (respond p st d s).freq = s.freq := rfl
@[simp] theorem respond_vol (p : Port) (st : Status) (d : Word32) : (respond p st d s).vol = s.vol := rfl
@[simp] theorem respond_phase (p : Port) (st : Status) (d : Word32) : (respond p st d s).phase = s.phase := rfl
@[simp] theorem respond_stepIndex (p : Port) (st : Status) (d : Word32) : (respond p st d s).stepIndex = s.stepIndex := rfl
@[simp] theorem respond_sps (p : Port) (st : Status) (d : Word32) : (respond p st d s).sps = s.sps := rfl
@[simp] theorem respond_sw (p : Port) (st : Status) (d : Word32) : (respond p st d s).sw = s.sw := rfl
@[simp] theorem respond_sn (p : Port) (st : Status) (d : Word32) : (respond p st d s).sn = s.sn := rfl
@[simp] theorem respond_e (p : Port) (st : Status) (d : Word32) : (respond p st d s).e = s.e := rfl
@[simp] theorem respond_gate (p : Port) (st : Status) (d : Word32) : (respond p st d s).gate = s.gate := rfl
@[simp] theorem respond_pullLimit (p : Port) (st : Status) (d : Word32) : (respond p st d s).pullLimit = s.pullLimit := rfl
@[simp] theorem respond_pullCount (p : Port) (st : Status) (d : Word32) : (respond p st d s).pullCount = s.pullCount := rfl
@[simp] theorem respond_ctrlHold (p : Port) (st : Status) (d : Word32) : (respond p st d s).ctrlHold = s.ctrlHold := rfl
@[simp] theorem respond_tpKeys (p : Port) (st : Status) (d : Word32) : (respond p st d s).tpKeys = s.tpKeys := rfl
@[simp] theorem respond_fxKeys (p : Port) (st : Status) (d : Word32) : (respond p st d s).fxKeys = s.fxKeys := rfl
@[simp] theorem respond_mem (p : Port) (st : Status) (d : Word32) : (respond p st d s).mem = s.mem := rfl
@[simp] theorem respond_inputs (p : Port) (st : Status) (d : Word32) : (respond p st d s).inputs = s.inputs := rfl
@[simp] theorem respond_out (p : Port) (st : Status) (d : Word32) : (respond p st d s).out = s.out ++ [.response p (rspWord st d)] := rfl

/-! ### emitSample -/

@[simp] theorem emitSample_sampleRate (w : BitVec 16) : (emitSample w s).sampleRate = s.sampleRate := rfl
@[simp] theorem emitSample_sampleRange (w : BitVec 16) : (emitSample w s).sampleRange = s.sampleRange := rfl
@[simp] theorem emitSample_bufferSize (w : BitVec 16) : (emitSample w s).bufferSize = s.bufferSize := rfl
@[simp] theorem emitSample_orMask (w : BitVec 16) : (emitSample w s).orMask = s.orMask := rfl
@[simp] theorem emitSample_sink (w : BitVec 16) : (emitSample w s).sink = s.sink := rfl
@[simp] theorem emitSample_connected (w : BitVec 16) : (emitSample w s).connected = s.connected := rfl
@[simp] theorem emitSample_active (w : BitVec 16) : (emitSample w s).active = s.active := rfl
@[simp] theorem emitSample_seqBase (w : BitVec 16) : (emitSample w s).seqBase = s.seqBase := rfl
@[simp] theorem emitSample_seqCount (w : BitVec 16) : (emitSample w s).seqCount = s.seqCount := rfl
@[simp] theorem emitSample_pos (w : BitVec 16) : (emitSample w s).pos = s.pos := rfl
@[simp] theorem emitSample_freq (w : BitVec 16) : (emitSample w s).freq = s.freq := rfl
@[simp] theorem emitSample_vol (w : BitVec 16) : (emitSample w s).vol = s.vol := rfl
@[simp] theorem emitSample_phase (w : BitVec 16) : (emitSample w s).phase = s.phase := rfl
@[simp] theorem emitSample_stepIndex (w : BitVec 16) : (emitSample w s).stepIndex = s.stepIndex := rfl
@[simp] theorem emitSample_sps (w : BitVec 16) : (emitSample w s).sps = s.sps := rfl
@[simp] theorem emitSample_sw (w : BitVec 16) : (emitSample w s).sw = s.sw := rfl
@[simp] theorem emitSample_sn (w : BitVec 16) : (emitSample w s).sn = s.sn := rfl
@[simp] theorem emitSample_e (w : BitVec 16) : (emitSample w s).e = s.e := rfl
@[simp] theorem emitSample_gate (w : BitVec 16) : (emitSample w s).gate = s.gate := rfl
@[simp] theorem emitSample_pullLimit (w : BitVec 16) : (emitSample w s).pullLimit = s.pullLimit := rfl
@[simp] theorem emitSample_pullCount (w : BitVec 16) : (emitSample w s).pullCount = s.pullCount := rfl
@[simp] theorem emitSample_ctrlHold (w : BitVec 16) : (emitSample w s).ctrlHold = s.ctrlHold := rfl
@[simp] theorem emitSample_tpKeys (w : BitVec 16) : (emitSample w s).tpKeys = s.tpKeys := rfl
@[simp] theorem emitSample_fxKeys (w : BitVec 16) : (emitSample w s).fxKeys = s.fxKeys := rfl
@[simp] theorem emitSample_mem (w : BitVec 16) : (emitSample w s).mem = s.mem := rfl
@[simp] theorem emitSample_inputs (w : BitVec 16) : (emitSample w s).inputs = s.inputs := rfl
@[simp] theorem emitSample_out (w : BitVec 16) : (emitSample w s).out = s.out ++ [.sample w] := rfl

/-! ### emitRelease -/

@[simp] theorem emitRelease_sampleRate (b : Word32) : (emitRelease b s).sampleRate = s.sampleRate := rfl
@[simp] theorem emitRelease_sampleRange (b : Word32) : (emitRelease b s).sampleRange = s.sampleRange := rfl
@[simp] theorem emitRelease_bufferSize (b : Word32) : (emitRelease b s).bufferSize = s.bufferSize := rfl
@[simp] theorem emitRelease_orMask (b : Word32) : (emitRelease b s).orMask = s.orMask := rfl
@[simp] theorem emitRelease_sink (b : Word32) : (emitRelease b s).sink = s.sink := rfl
@[simp] theorem emitRelease_connected (b : Word32) : (emitRelease b s).connected = s.connected := rfl
@[simp] theorem emitRelease_active (b : Word32) : (emitRelease b s).active = s.active := rfl
@[simp] theorem emitRelease_seqBase (b : Word32) : (emitRelease b s).seqBase = s.seqBase := rfl
@[simp] theorem emitRelease_seqCount (b : Word32) : (emitRelease b s).seqCount = s.seqCount := rfl
@[simp] theorem emitRelease_pos (b : Word32) : (emitRelease b s).pos = s.pos := rfl
@[simp] theorem emitRelease_freq (b : Word32) : (emitRelease b s).freq = s.freq := rfl
@[simp] theorem emitRelease_vol (b : Word32) : (emitRelease b s).vol = s.vol := rfl
@[simp] theorem emitRelease_phase (b : Word32) : (emitRelease b s).phase = s.phase := rfl
@[simp] theorem emitRelease_stepIndex (b : Word32) : (emitRelease b s).stepIndex = s.stepIndex := rfl
@[simp] theorem emitRelease_sps (b : Word32) : (emitRelease b s).sps = s.sps := rfl
@[simp] theorem emitRelease_sw (b : Word32) : (emitRelease b s).sw = s.sw := rfl
@[simp] theorem emitRelease_sn (b : Word32) : (emitRelease b s).sn = s.sn := rfl
@[simp] theorem emitRelease_e (b : Word32) : (emitRelease b s).e = s.e := rfl
@[simp] theorem emitRelease_gate (b : Word32) : (emitRelease b s).gate = s.gate := rfl
@[simp] theorem emitRelease_pullLimit (b : Word32) : (emitRelease b s).pullLimit = s.pullLimit := rfl
@[simp] theorem emitRelease_pullCount (b : Word32) : (emitRelease b s).pullCount = s.pullCount := rfl
@[simp] theorem emitRelease_ctrlHold (b : Word32) : (emitRelease b s).ctrlHold = s.ctrlHold := rfl
@[simp] theorem emitRelease_tpKeys (b : Word32) : (emitRelease b s).tpKeys = s.tpKeys := rfl
@[simp] theorem emitRelease_fxKeys (b : Word32) : (emitRelease b s).fxKeys = s.fxKeys := rfl
@[simp] theorem emitRelease_mem (b : Word32) : (emitRelease b s).mem = s.mem := rfl
@[simp] theorem emitRelease_inputs (b : Word32) : (emitRelease b s).inputs = s.inputs := rfl
@[simp] theorem emitRelease_out (b : Word32) : (emitRelease b s).out = s.out ++ [.release b] := rfl

/-! ### latched -/

@[simp] theorem latched_sampleRate (r : Effect) : (latched r s).sampleRate = s.sampleRate := rfl
@[simp] theorem latched_sampleRange (r : Effect) : (latched r s).sampleRange = s.sampleRange := rfl
@[simp] theorem latched_bufferSize (r : Effect) : (latched r s).bufferSize = s.bufferSize := rfl
@[simp] theorem latched_orMask (r : Effect) : (latched r s).orMask = s.orMask := rfl
@[simp] theorem latched_sink (r : Effect) : (latched r s).sink = s.sink := rfl
@[simp] theorem latched_connected (r : Effect) : (latched r s).connected = s.connected := rfl
@[simp] theorem latched_active (r : Effect) : (latched r s).active = s.active := rfl
@[simp] theorem latched_seqBase (r : Effect) : (latched r s).seqBase = s.seqBase := rfl
@[simp] theorem latched_seqCount (r : Effect) : (latched r s).seqCount = s.seqCount := rfl
@[simp] theorem latched_pos (r : Effect) : (latched r s).pos = s.pos := rfl
@[simp] theorem latched_freq (r : Effect) : (latched r s).freq = r.freq := rfl
@[simp] theorem latched_vol (r : Effect) : (latched r s).vol = r.vol := rfl
@[simp] theorem latched_phase (r : Effect) : (latched r s).phase = 0#32 := rfl
@[simp] theorem latched_stepIndex (r : Effect) : (latched r s).stepIndex = 0#32 := rfl
@[simp] theorem latched_sps (r : Effect) : (latched r s).sps = samplesPerStep (samplesRequired r.duration s.sampleRate) r.steps := rfl
@[simp] theorem latched_sw (r : Effect) : (latched r s).sw = 0#64 := rfl
@[simp] theorem latched_sn (r : Effect) : (latched r s).sn = samplesRequired r.duration s.sampleRate := rfl
@[simp] theorem latched_e (r : Effect) : (latched r s).e = r := rfl
@[simp] theorem latched_gate (r : Effect) : (latched r s).gate = s.gate := rfl
@[simp] theorem latched_pullLimit (r : Effect) : (latched r s).pullLimit = s.pullLimit := rfl
@[simp] theorem latched_pullCount (r : Effect) : (latched r s).pullCount = s.pullCount := rfl
@[simp] theorem latched_ctrlHold (r : Effect) : (latched r s).ctrlHold = s.ctrlHold := rfl
@[simp] theorem latched_tpKeys (r : Effect) : (latched r s).tpKeys = s.tpKeys := rfl
@[simp] theorem latched_fxKeys (r : Effect) : (latched r s).fxKeys = s.fxKeys := rfl
@[simp] theorem latched_mem (r : Effect) : (latched r s).mem = s.mem := rfl
@[simp] theorem latched_inputs (r : Effect) : (latched r s).inputs = s.inputs := rfl
@[simp] theorem latched_out (r : Effect) : (latched r s).out = s.out := rfl

/-! ### endSequence -/

@[simp] theorem endSequence_sampleRate : (endSequence s).sampleRate = s.sampleRate := rfl
@[simp] theorem endSequence_sampleRange : (endSequence s).sampleRange = s.sampleRange := rfl
@[simp] theorem endSequence_bufferSize : (endSequence s).bufferSize = s.bufferSize := rfl
@[simp] theorem endSequence_orMask : (endSequence s).orMask = s.orMask := rfl
@[simp] theorem endSequence_sink : (endSequence s).sink = s.sink := rfl
@[simp] theorem endSequence_connected : (endSequence s).connected = s.connected := rfl
@[simp] theorem endSequence_active : (endSequence s).active = false := rfl
@[simp] theorem endSequence_seqBase : (endSequence s).seqBase = s.seqBase := rfl
@[simp] theorem endSequence_seqCount : (endSequence s).seqCount = s.seqCount := rfl
@[simp] theorem endSequence_pos : (endSequence s).pos = s.pos := rfl
@[simp] theorem endSequence_freq : (endSequence s).freq = s.freq := rfl
@[simp] theorem endSequence_vol : (endSequence s).vol = s.vol := rfl
@[simp] theorem endSequence_phase : (endSequence s).phase = s.phase := rfl
@[simp] theorem endSequence_stepIndex : (endSequence s).stepIndex = s.stepIndex := rfl
@[simp] theorem endSequence_sps : (endSequence s).sps = s.sps := rfl
@[simp] theorem endSequence_sw : (endSequence s).sw = s.sw := rfl
@[simp] theorem endSequence_sn : (endSequence s).sn = s.sn := rfl
@[simp] theorem endSequence_e : (endSequence s).e = s.e := rfl
@[simp] theorem endSequence_gate : (endSequence s).gate = s.gate := rfl
@[simp] theorem endSequence_pullLimit : (endSequence s).pullLimit = s.pullLimit := rfl
@[simp] theorem endSequence_pullCount : (endSequence s).pullCount = s.pullCount := rfl
@[simp] theorem endSequence_ctrlHold : (endSequence s).ctrlHold = s.ctrlHold := rfl
@[simp] theorem endSequence_tpKeys : (endSequence s).tpKeys = s.tpKeys := rfl
@[simp] theorem endSequence_fxKeys : (endSequence s).fxKeys = s.fxKeys := rfl
@[simp] theorem endSequence_mem : (endSequence s).mem = s.mem := rfl
@[simp] theorem endSequence_inputs : (endSequence s).inputs = s.inputs := rfl
@[simp] theorem endSequence_out : (endSequence s).out = s.out ++ [.release s.seqBase] := rfl

/-! ### advancePos -/

@[simp] theorem advancePos_sampleRate : (advancePos s).sampleRate = s.sampleRate := rfl
@[simp] theorem advancePos_sampleRange : (advancePos s).sampleRange = s.sampleRange := rfl
@[simp] theorem advancePos_bufferSize : (advancePos s).bufferSize = s.bufferSize := rfl
@[simp] theorem advancePos_orMask : (advancePos s).orMask = s.orMask := rfl
@[simp] theorem advancePos_sink : (advancePos s).sink = s.sink := rfl
@[simp] theorem advancePos_connected : (advancePos s).connected = s.connected := rfl
@[simp] theorem advancePos_active : (advancePos s).active = s.active := rfl
@[simp] theorem advancePos_seqBase : (advancePos s).seqBase = s.seqBase := rfl
@[simp] theorem advancePos_seqCount : (advancePos s).seqCount = s.seqCount := rfl
@[simp] theorem advancePos_pos : (advancePos s).pos = s.pos + 1#18 := rfl
@[simp] theorem advancePos_freq : (advancePos s).freq = s.freq := rfl
@[simp] theorem advancePos_vol : (advancePos s).vol = s.vol := rfl
@[simp] theorem advancePos_phase : (advancePos s).phase = s.phase := rfl
@[simp] theorem advancePos_stepIndex : (advancePos s).stepIndex = s.stepIndex := rfl
@[simp] theorem advancePos_sps : (advancePos s).sps = s.sps := rfl
@[simp] theorem advancePos_sw : (advancePos s).sw = s.sw := rfl
@[simp] theorem advancePos_sn : (advancePos s).sn = s.sn := rfl
@[simp] theorem advancePos_e : (advancePos s).e = s.e := rfl
@[simp] theorem advancePos_gate : (advancePos s).gate = s.gate := rfl
@[simp] theorem advancePos_pullLimit : (advancePos s).pullLimit = s.pullLimit := rfl
@[simp] theorem advancePos_pullCount : (advancePos s).pullCount = s.pullCount := rfl
@[simp] theorem advancePos_ctrlHold : (advancePos s).ctrlHold = s.ctrlHold := rfl
@[simp] theorem advancePos_tpKeys : (advancePos s).tpKeys = s.tpKeys := rfl
@[simp] theorem advancePos_fxKeys : (advancePos s).fxKeys = s.fxKeys := rfl
@[simp] theorem advancePos_mem : (advancePos s).mem = s.mem := rfl
@[simp] theorem advancePos_inputs : (advancePos s).inputs = s.inputs := rfl
@[simp] theorem advancePos_out : (advancePos s).out = s.out := rfl

/-! ### countSample -/

@[simp] theorem countSample_sampleRate : (countSample s).sampleRate = s.sampleRate := rfl
@[simp] theorem countSample_sampleRange : (countSample s).sampleRange = s.sampleRange := rfl
@[simp] theorem countSample_bufferSize : (countSample s).bufferSize = s.bufferSize := rfl
@[simp] theorem countSample_orMask : (countSample s).orMask = s.orMask := rfl
@[simp] theorem countSample_sink : (countSample s).sink = s.sink := rfl
@[simp] theorem countSample_connected : (countSample s).connected = s.connected := rfl
@[simp] theorem countSample_active : (countSample s).active = s.active := rfl
@[simp] theorem countSample_seqBase : (countSample s).seqBase = s.seqBase := rfl
@[simp] theorem countSample_seqCount : (countSample s).seqCount = s.seqCount := rfl
@[simp] theorem countSample_pos : (countSample s).pos = s.pos := rfl
@[simp] theorem countSample_freq : (countSample s).freq = s.freq := rfl
@[simp] theorem countSample_vol : (countSample s).vol = s.vol := rfl
@[simp] theorem countSample_phase : (countSample s).phase = s.phase := rfl
@[simp] theorem countSample_stepIndex : (countSample s).stepIndex = s.stepIndex := rfl
@[simp] theorem countSample_sps : (countSample s).sps = s.sps := rfl
@[simp] theorem countSample_sw : (countSample s).sw = s.sw + 1#64 := rfl
@[simp] theorem countSample_sn : (countSample s).sn = s.sn := rfl
@[simp] theorem countSample_e : (countSample s).e = s.e := rfl
@[simp] theorem countSample_gate : (countSample s).gate = s.gate := rfl
@[simp] theorem countSample_pullLimit : (countSample s).pullLimit = s.pullLimit := rfl
@[simp] theorem countSample_pullCount : (countSample s).pullCount = s.pullCount := rfl
@[simp] theorem countSample_ctrlHold : (countSample s).ctrlHold = s.ctrlHold := rfl
@[simp] theorem countSample_tpKeys : (countSample s).tpKeys = s.tpKeys := rfl
@[simp] theorem countSample_fxKeys : (countSample s).fxKeys = s.fxKeys := rfl
@[simp] theorem countSample_mem : (countSample s).mem = s.mem := rfl
@[simp] theorem countSample_inputs : (countSample s).inputs = s.inputs := rfl
@[simp] theorem countSample_out : (countSample s).out = s.out := rfl

/-! ### enterStep -/

@[simp] theorem enterStep_sampleRate : (enterStep s).sampleRate = s.sampleRate := rfl
@[simp] theorem enterStep_sampleRange : (enterStep s).sampleRange = s.sampleRange := rfl
@[simp] theorem enterStep_bufferSize : (enterStep s).bufferSize = s.bufferSize := rfl
@[simp] theorem enterStep_orMask : (enterStep s).orMask = s.orMask := rfl
@[simp] theorem enterStep_sink : (enterStep s).sink = s.sink := rfl
@[simp] theorem enterStep_connected : (enterStep s).connected = s.connected := rfl
@[simp] theorem enterStep_active : (enterStep s).active = s.active := rfl
@[simp] theorem enterStep_seqBase : (enterStep s).seqBase = s.seqBase := rfl
@[simp] theorem enterStep_seqCount : (enterStep s).seqCount = s.seqCount := rfl
@[simp] theorem enterStep_pos : (enterStep s).pos = s.pos := rfl
@[simp] theorem enterStep_freq : (enterStep s).freq = s.freq := rfl
@[simp] theorem enterStep_vol : (enterStep s).vol = s.vol := rfl
@[simp] theorem enterStep_phase : (enterStep s).phase = s.phase := rfl
@[simp] theorem enterStep_stepIndex : (enterStep s).stepIndex = s.stepIndex + 1#32 := rfl
@[simp] theorem enterStep_sps : (enterStep s).sps = s.sps := rfl
@[simp] theorem enterStep_sw : (enterStep s).sw = s.sw := rfl
@[simp] theorem enterStep_sn : (enterStep s).sn = s.sn := rfl
@[simp] theorem enterStep_e : (enterStep s).e = s.e := rfl
@[simp] theorem enterStep_gate : (enterStep s).gate = s.gate := rfl
@[simp] theorem enterStep_pullLimit : (enterStep s).pullLimit = s.pullLimit := rfl
@[simp] theorem enterStep_pullCount : (enterStep s).pullCount = s.pullCount := rfl
@[simp] theorem enterStep_ctrlHold : (enterStep s).ctrlHold = s.ctrlHold := rfl
@[simp] theorem enterStep_tpKeys : (enterStep s).tpKeys = s.tpKeys := rfl
@[simp] theorem enterStep_fxKeys : (enterStep s).fxKeys = s.fxKeys := rfl
@[simp] theorem enterStep_mem : (enterStep s).mem = s.mem := rfl
@[simp] theorem enterStep_inputs : (enterStep s).inputs = s.inputs := rfl
@[simp] theorem enterStep_out : (enterStep s).out = s.out := rfl

/-! ### playHold -/

@[simp] theorem playHold_sampleRate (b : Word32) (l : BitVec 24) : (playHold b l s).sampleRate = s.sampleRate := rfl
@[simp] theorem playHold_sampleRange (b : Word32) (l : BitVec 24) : (playHold b l s).sampleRange = s.sampleRange := rfl
@[simp] theorem playHold_bufferSize (b : Word32) (l : BitVec 24) : (playHold b l s).bufferSize = s.bufferSize := rfl
@[simp] theorem playHold_orMask (b : Word32) (l : BitVec 24) : (playHold b l s).orMask = s.orMask := rfl
@[simp] theorem playHold_sink (b : Word32) (l : BitVec 24) : (playHold b l s).sink = s.sink := rfl
@[simp] theorem playHold_connected (b : Word32) (l : BitVec 24) : (playHold b l s).connected = s.connected := rfl
@[simp] theorem playHold_active (b : Word32) (l : BitVec 24) : (playHold b l s).active = s.active := rfl
@[simp] theorem playHold_seqBase (b : Word32) (l : BitVec 24) : (playHold b l s).seqBase = s.seqBase := rfl
@[simp] theorem playHold_seqCount (b : Word32) (l : BitVec 24) : (playHold b l s).seqCount = s.seqCount := rfl
@[simp] theorem playHold_pos (b : Word32) (l : BitVec 24) : (playHold b l s).pos = s.pos := rfl
@[simp] theorem playHold_freq (b : Word32) (l : BitVec 24) : (playHold b l s).freq = s.freq := rfl
@[simp] theorem playHold_vol (b : Word32) (l : BitVec 24) : (playHold b l s).vol = s.vol := rfl
@[simp] theorem playHold_phase (b : Word32) (l : BitVec 24) : (playHold b l s).phase = s.phase := rfl
@[simp] theorem playHold_stepIndex (b : Word32) (l : BitVec 24) : (playHold b l s).stepIndex = s.stepIndex := rfl
@[simp] theorem playHold_sps (b : Word32) (l : BitVec 24) : (playHold b l s).sps = s.sps := rfl
@[simp] theorem playHold_sw (b : Word32) (l : BitVec 24) : (playHold b l s).sw = s.sw := rfl
@[simp] theorem playHold_sn (b : Word32) (l : BitVec 24) : (playHold b l s).sn = s.sn := rfl
@[simp] theorem playHold_e (b : Word32) (l : BitVec 24) : (playHold b l s).e = s.e := rfl
@[simp] theorem playHold_gate (b : Word32) (l : BitVec 24) : (playHold b l s).gate = s.gate := rfl
@[simp] theorem playHold_pullLimit (b : Word32) (l : BitVec 24) : (playHold b l s).pullLimit = s.pullLimit := rfl
@[simp] theorem playHold_pullCount (b : Word32) (l : BitVec 24) : (playHold b l s).pullCount = s.pullCount := rfl
@[simp] theorem playHold_ctrlHold (b : Word32) (l : BitVec 24) : (playHold b l s).ctrlHold = some ⟨b, l⟩ := rfl
@[simp] theorem playHold_tpKeys (b : Word32) (l : BitVec 24) : (playHold b l s).tpKeys = s.tpKeys := rfl
@[simp] theorem playHold_fxKeys (b : Word32) (l : BitVec 24) : (playHold b l s).fxKeys = s.fxKeys := rfl
@[simp] theorem playHold_mem (b : Word32) (l : BitVec 24) : (playHold b l s).mem = s.mem := rfl
@[simp] theorem playHold_inputs (b : Word32) (l : BitVec 24) : (playHold b l s).inputs = s.inputs := rfl
@[simp] theorem playHold_out (b : Word32) (l : BitVec 24) : (playHold b l s).out = s.out := rfl

/-! ### tickSample -/

@[simp] theorem tickSample_sampleRate (U : Units) : (tickSample U s).sampleRate = s.sampleRate := rfl
@[simp] theorem tickSample_sampleRange (U : Units) : (tickSample U s).sampleRange = s.sampleRange := rfl
@[simp] theorem tickSample_bufferSize (U : Units) : (tickSample U s).bufferSize = s.bufferSize := rfl
@[simp] theorem tickSample_orMask (U : Units) : (tickSample U s).orMask = s.orMask := rfl
@[simp] theorem tickSample_sink (U : Units) : (tickSample U s).sink = s.sink := rfl
@[simp] theorem tickSample_connected (U : Units) : (tickSample U s).connected = s.connected := rfl
@[simp] theorem tickSample_active (U : Units) : (tickSample U s).active = s.active := rfl
@[simp] theorem tickSample_seqBase (U : Units) : (tickSample U s).seqBase = s.seqBase := rfl
@[simp] theorem tickSample_seqCount (U : Units) : (tickSample U s).seqCount = s.seqCount := rfl
@[simp] theorem tickSample_pos (U : Units) : (tickSample U s).pos = s.pos := rfl
@[simp] theorem tickSample_freq (U : Units) : (tickSample U s).freq = s.freq := rfl
@[simp] theorem tickSample_vol (U : Units) : (tickSample U s).vol = s.vol := rfl
@[simp] theorem tickSample_phase (U : Units) : (tickSample U s).phase = s.phase := rfl
@[simp] theorem tickSample_stepIndex (U : Units) : (tickSample U s).stepIndex = s.stepIndex := rfl
@[simp] theorem tickSample_sps (U : Units) : (tickSample U s).sps = s.sps := rfl
@[simp] theorem tickSample_sw (U : Units) : (tickSample U s).sw = s.sw := rfl
@[simp] theorem tickSample_sn (U : Units) : (tickSample U s).sn = s.sn := rfl
@[simp] theorem tickSample_e (U : Units) : (tickSample U s).e = s.e := rfl
@[simp] theorem tickSample_gate (U : Units) : (tickSample U s).gate = s.gate := rfl
@[simp] theorem tickSample_pullLimit (U : Units) : (tickSample U s).pullLimit = s.pullLimit := rfl
@[simp] theorem tickSample_pullCount (U : Units) : (tickSample U s).pullCount = s.pullCount + 1#31 := rfl
@[simp] theorem tickSample_ctrlHold (U : Units) : (tickSample U s).ctrlHold = s.ctrlHold := rfl
@[simp] theorem tickSample_tpKeys (U : Units) : (tickSample U s).tpKeys = s.tpKeys := rfl
@[simp] theorem tickSample_fxKeys (U : Units) : (tickSample U s).fxKeys = s.fxKeys := rfl
@[simp] theorem tickSample_mem (U : Units) : (tickSample U s).mem = s.mem := rfl
@[simp] theorem tickSample_inputs (U : Units) : (tickSample U s).inputs = s.inputs := rfl
@[simp] theorem tickSample_out (U : Units) : (tickSample U s).out = s.out ++ [.sample (sampleWord U s)] := rfl

/-! ### tickPhase -/

@[simp] theorem tickPhase_sampleRate : (tickPhase s).sampleRate = s.sampleRate := rfl
@[simp] theorem tickPhase_sampleRange : (tickPhase s).sampleRange = s.sampleRange := rfl
@[simp] theorem tickPhase_bufferSize : (tickPhase s).bufferSize = s.bufferSize := rfl
@[simp] theorem tickPhase_orMask : (tickPhase s).orMask = s.orMask := rfl
@[simp] theorem tickPhase_sink : (tickPhase s).sink = s.sink := rfl
@[simp] theorem tickPhase_connected : (tickPhase s).connected = s.connected := rfl
@[simp] theorem tickPhase_active : (tickPhase s).active = s.active := rfl
@[simp] theorem tickPhase_seqBase : (tickPhase s).seqBase = s.seqBase := rfl
@[simp] theorem tickPhase_seqCount : (tickPhase s).seqCount = s.seqCount := rfl
@[simp] theorem tickPhase_pos : (tickPhase s).pos = s.pos := rfl
@[simp] theorem tickPhase_freq : (tickPhase s).freq = s.freq := rfl
@[simp] theorem tickPhase_vol : (tickPhase s).vol = s.vol := rfl
@[simp] theorem tickPhase_phase : (tickPhase s).phase = s.phase + ftw s.freq s.sampleRate := rfl
@[simp] theorem tickPhase_stepIndex : (tickPhase s).stepIndex = s.stepIndex := rfl
@[simp] theorem tickPhase_sps : (tickPhase s).sps = s.sps := rfl
@[simp] theorem tickPhase_sw : (tickPhase s).sw = s.sw := rfl
@[simp] theorem tickPhase_sn : (tickPhase s).sn = s.sn := rfl
@[simp] theorem tickPhase_e : (tickPhase s).e = s.e := rfl
@[simp] theorem tickPhase_gate : (tickPhase s).gate = s.gate := rfl
@[simp] theorem tickPhase_pullLimit : (tickPhase s).pullLimit = s.pullLimit := rfl
@[simp] theorem tickPhase_pullCount : (tickPhase s).pullCount = s.pullCount := rfl
@[simp] theorem tickPhase_ctrlHold : (tickPhase s).ctrlHold = s.ctrlHold := rfl
@[simp] theorem tickPhase_tpKeys : (tickPhase s).tpKeys = s.tpKeys := rfl
@[simp] theorem tickPhase_fxKeys : (tickPhase s).fxKeys = s.fxKeys := rfl
@[simp] theorem tickPhase_mem : (tickPhase s).mem = s.mem := rfl
@[simp] theorem tickPhase_inputs : (tickPhase s).inputs = s.inputs := rfl
@[simp] theorem tickPhase_out : (tickPhase s).out = s.out := rfl

/-! ### pullBegin -/

@[simp] theorem pullBegin_sampleRate : (pullBegin s).sampleRate = s.sampleRate := rfl
@[simp] theorem pullBegin_sampleRange : (pullBegin s).sampleRange = s.sampleRange := rfl
@[simp] theorem pullBegin_bufferSize : (pullBegin s).bufferSize = s.bufferSize := rfl
@[simp] theorem pullBegin_orMask : (pullBegin s).orMask = s.orMask := rfl
@[simp] theorem pullBegin_sink : (pullBegin s).sink = s.sink := rfl
@[simp] theorem pullBegin_connected : (pullBegin s).connected = s.connected := rfl
@[simp] theorem pullBegin_active : (pullBegin s).active = s.active := rfl
@[simp] theorem pullBegin_seqBase : (pullBegin s).seqBase = s.seqBase := rfl
@[simp] theorem pullBegin_seqCount : (pullBegin s).seqCount = s.seqCount := rfl
@[simp] theorem pullBegin_pos : (pullBegin s).pos = s.pos := rfl
@[simp] theorem pullBegin_freq : (pullBegin s).freq = s.freq := rfl
@[simp] theorem pullBegin_vol : (pullBegin s).vol = s.vol := rfl
@[simp] theorem pullBegin_phase : (pullBegin s).phase = s.phase := rfl
@[simp] theorem pullBegin_stepIndex : (pullBegin s).stepIndex = s.stepIndex := rfl
@[simp] theorem pullBegin_sps : (pullBegin s).sps = s.sps := rfl
@[simp] theorem pullBegin_sw : (pullBegin s).sw = s.sw := rfl
@[simp] theorem pullBegin_sn : (pullBegin s).sn = s.sn := rfl
@[simp] theorem pullBegin_e : (pullBegin s).e = s.e := rfl
@[simp] theorem pullBegin_gate : (pullBegin s).gate = .render := rfl
@[simp] theorem pullBegin_pullLimit : (pullBegin s).pullLimit = s.bufferSize := rfl
@[simp] theorem pullBegin_pullCount : (pullBegin s).pullCount = 0#31 := rfl
@[simp] theorem pullBegin_ctrlHold : (pullBegin s).ctrlHold = s.ctrlHold := rfl
@[simp] theorem pullBegin_tpKeys : (pullBegin s).tpKeys = s.tpKeys := rfl
@[simp] theorem pullBegin_fxKeys : (pullBegin s).fxKeys = s.fxKeys := rfl
@[simp] theorem pullBegin_mem : (pullBegin s).mem = s.mem := rfl
@[simp] theorem pullBegin_inputs : (pullBegin s).inputs = s.inputs := rfl
@[simp] theorem pullBegin_out : (pullBegin s).out = s.out := rfl

/-! ### pullEnd -/

@[simp] theorem pullEnd_sampleRate : (pullEnd s).sampleRate = s.sampleRate := rfl
@[simp] theorem pullEnd_sampleRange : (pullEnd s).sampleRange = s.sampleRange := rfl
@[simp] theorem pullEnd_bufferSize : (pullEnd s).bufferSize = s.bufferSize := rfl
@[simp] theorem pullEnd_orMask : (pullEnd s).orMask = s.orMask := rfl
@[simp] theorem pullEnd_sink : (pullEnd s).sink = s.sink := rfl
@[simp] theorem pullEnd_connected : (pullEnd s).connected = s.connected := rfl
@[simp] theorem pullEnd_active : (pullEnd s).active = s.active := rfl
@[simp] theorem pullEnd_seqBase : (pullEnd s).seqBase = s.seqBase := rfl
@[simp] theorem pullEnd_seqCount : (pullEnd s).seqCount = s.seqCount := rfl
@[simp] theorem pullEnd_pos : (pullEnd s).pos = s.pos := rfl
@[simp] theorem pullEnd_freq : (pullEnd s).freq = s.freq := rfl
@[simp] theorem pullEnd_vol : (pullEnd s).vol = s.vol := rfl
@[simp] theorem pullEnd_phase : (pullEnd s).phase = s.phase := rfl
@[simp] theorem pullEnd_stepIndex : (pullEnd s).stepIndex = s.stepIndex := rfl
@[simp] theorem pullEnd_sps : (pullEnd s).sps = s.sps := rfl
@[simp] theorem pullEnd_sw : (pullEnd s).sw = s.sw := rfl
@[simp] theorem pullEnd_sn : (pullEnd s).sn = s.sn := rfl
@[simp] theorem pullEnd_e : (pullEnd s).e = s.e := rfl
@[simp] theorem pullEnd_gate : (pullEnd s).gate = .free := rfl
@[simp] theorem pullEnd_pullLimit : (pullEnd s).pullLimit = s.pullLimit := rfl
@[simp] theorem pullEnd_pullCount : (pullEnd s).pullCount = s.pullCount := rfl
@[simp] theorem pullEnd_ctrlHold : (pullEnd s).ctrlHold = s.ctrlHold := rfl
@[simp] theorem pullEnd_tpKeys : (pullEnd s).tpKeys = s.tpKeys := rfl
@[simp] theorem pullEnd_fxKeys : (pullEnd s).fxKeys = s.fxKeys := rfl
@[simp] theorem pullEnd_mem : (pullEnd s).mem = s.mem := rfl
@[simp] theorem pullEnd_inputs : (pullEnd s).inputs = s.inputs := rfl
@[simp] theorem pullEnd_out : (pullEnd s).out = s.out ++ [.response .stream (rspWord .ok (zext32 s.pullCount))] := rfl

/-! ### applyFx, modulate, tickSchedule: what MODULATE and step scheduling leave alone (R144, R152) -/

@[simp] theorem applyFx_sampleRate (U : Units) (b : FxBinding) : (applyFx U b s).sampleRate = s.sampleRate := by unfold applyFx; split <;> rfl
@[simp] theorem applyFx_sampleRange (U : Units) (b : FxBinding) : (applyFx U b s).sampleRange = s.sampleRange := by unfold applyFx; split <;> rfl
@[simp] theorem applyFx_bufferSize (U : Units) (b : FxBinding) : (applyFx U b s).bufferSize = s.bufferSize := by unfold applyFx; split <;> rfl
@[simp] theorem applyFx_orMask (U : Units) (b : FxBinding) : (applyFx U b s).orMask = s.orMask := by unfold applyFx; split <;> rfl
@[simp] theorem applyFx_sink (U : Units) (b : FxBinding) : (applyFx U b s).sink = s.sink := by unfold applyFx; split <;> rfl
@[simp] theorem applyFx_connected (U : Units) (b : FxBinding) : (applyFx U b s).connected = s.connected := by unfold applyFx; split <;> rfl
@[simp] theorem applyFx_active (U : Units) (b : FxBinding) : (applyFx U b s).active = s.active := by unfold applyFx; split <;> rfl
@[simp] theorem applyFx_seqBase (U : Units) (b : FxBinding) : (applyFx U b s).seqBase = s.seqBase := by unfold applyFx; split <;> rfl
@[simp] theorem applyFx_seqCount (U : Units) (b : FxBinding) : (applyFx U b s).seqCount = s.seqCount := by unfold applyFx; split <;> rfl
@[simp] theorem applyFx_pos (U : Units) (b : FxBinding) : (applyFx U b s).pos = s.pos := by unfold applyFx; split <;> rfl
@[simp] theorem applyFx_phase (U : Units) (b : FxBinding) : (applyFx U b s).phase = s.phase := by unfold applyFx; split <;> rfl
@[simp] theorem applyFx_stepIndex (U : Units) (b : FxBinding) : (applyFx U b s).stepIndex = s.stepIndex := by unfold applyFx; split <;> rfl
@[simp] theorem applyFx_sps (U : Units) (b : FxBinding) : (applyFx U b s).sps = s.sps := by unfold applyFx; split <;> rfl
@[simp] theorem applyFx_sw (U : Units) (b : FxBinding) : (applyFx U b s).sw = s.sw := by unfold applyFx; split <;> rfl
@[simp] theorem applyFx_sn (U : Units) (b : FxBinding) : (applyFx U b s).sn = s.sn := by unfold applyFx; split <;> rfl
@[simp] theorem applyFx_e (U : Units) (b : FxBinding) : (applyFx U b s).e = s.e := by unfold applyFx; split <;> rfl
@[simp] theorem applyFx_gate (U : Units) (b : FxBinding) : (applyFx U b s).gate = s.gate := by unfold applyFx; split <;> rfl
@[simp] theorem applyFx_pullLimit (U : Units) (b : FxBinding) : (applyFx U b s).pullLimit = s.pullLimit := by unfold applyFx; split <;> rfl
@[simp] theorem applyFx_pullCount (U : Units) (b : FxBinding) : (applyFx U b s).pullCount = s.pullCount := by unfold applyFx; split <;> rfl
@[simp] theorem applyFx_ctrlHold (U : Units) (b : FxBinding) : (applyFx U b s).ctrlHold = s.ctrlHold := by unfold applyFx; split <;> rfl
@[simp] theorem applyFx_tpKeys (U : Units) (b : FxBinding) : (applyFx U b s).tpKeys = s.tpKeys := by unfold applyFx; split <;> rfl
@[simp] theorem applyFx_fxKeys (U : Units) (b : FxBinding) : (applyFx U b s).fxKeys = s.fxKeys := by unfold applyFx; split <;> rfl
@[simp] theorem applyFx_mem (U : Units) (b : FxBinding) : (applyFx U b s).mem = s.mem := by unfold applyFx; split <;> rfl
@[simp] theorem applyFx_inputs (U : Units) (b : FxBinding) : (applyFx U b s).inputs = s.inputs := by unfold applyFx; split <;> rfl
@[simp] theorem applyFx_out (U : Units) (b : FxBinding) : (applyFx U b s).out = s.out := by unfold applyFx; split <;> rfl

@[simp] theorem modulate_sampleRate (U : Units) : (modulate U s).sampleRate = s.sampleRate := by simp [modulate]
@[simp] theorem modulate_sampleRange (U : Units) : (modulate U s).sampleRange = s.sampleRange := by simp [modulate]
@[simp] theorem modulate_bufferSize (U : Units) : (modulate U s).bufferSize = s.bufferSize := by simp [modulate]
@[simp] theorem modulate_orMask (U : Units) : (modulate U s).orMask = s.orMask := by simp [modulate]
@[simp] theorem modulate_sink (U : Units) : (modulate U s).sink = s.sink := by simp [modulate]
@[simp] theorem modulate_connected (U : Units) : (modulate U s).connected = s.connected := by simp [modulate]
@[simp] theorem modulate_active (U : Units) : (modulate U s).active = s.active := by simp [modulate]
@[simp] theorem modulate_seqBase (U : Units) : (modulate U s).seqBase = s.seqBase := by simp [modulate]
@[simp] theorem modulate_seqCount (U : Units) : (modulate U s).seqCount = s.seqCount := by simp [modulate]
@[simp] theorem modulate_pos (U : Units) : (modulate U s).pos = s.pos := by simp [modulate]
@[simp] theorem modulate_phase (U : Units) : (modulate U s).phase = s.phase := by simp [modulate]
@[simp] theorem modulate_stepIndex (U : Units) : (modulate U s).stepIndex = s.stepIndex := by simp [modulate]
@[simp] theorem modulate_sps (U : Units) : (modulate U s).sps = s.sps := by simp [modulate]
@[simp] theorem modulate_sw (U : Units) : (modulate U s).sw = s.sw := by simp [modulate]
@[simp] theorem modulate_sn (U : Units) : (modulate U s).sn = s.sn := by simp [modulate]
@[simp] theorem modulate_e (U : Units) : (modulate U s).e = s.e := by simp [modulate]
@[simp] theorem modulate_gate (U : Units) : (modulate U s).gate = s.gate := by simp [modulate]
@[simp] theorem modulate_pullLimit (U : Units) : (modulate U s).pullLimit = s.pullLimit := by simp [modulate]
@[simp] theorem modulate_pullCount (U : Units) : (modulate U s).pullCount = s.pullCount := by simp [modulate]
@[simp] theorem modulate_ctrlHold (U : Units) : (modulate U s).ctrlHold = s.ctrlHold := by simp [modulate]
@[simp] theorem modulate_tpKeys (U : Units) : (modulate U s).tpKeys = s.tpKeys := by simp [modulate]
@[simp] theorem modulate_fxKeys (U : Units) : (modulate U s).fxKeys = s.fxKeys := by simp [modulate]
@[simp] theorem modulate_mem (U : Units) : (modulate U s).mem = s.mem := by simp [modulate]
@[simp] theorem modulate_inputs (U : Units) : (modulate U s).inputs = s.inputs := by simp [modulate]
@[simp] theorem modulate_out (U : Units) : (modulate U s).out = s.out := by simp [modulate]

@[simp] theorem tickSchedule_sampleRate (U : Units) : (tickSchedule U s).sampleRate = s.sampleRate := by unfold tickSchedule; split <;> (try split) <;> simp
@[simp] theorem tickSchedule_sampleRange (U : Units) : (tickSchedule U s).sampleRange = s.sampleRange := by unfold tickSchedule; split <;> (try split) <;> simp
@[simp] theorem tickSchedule_bufferSize (U : Units) : (tickSchedule U s).bufferSize = s.bufferSize := by unfold tickSchedule; split <;> (try split) <;> simp
@[simp] theorem tickSchedule_orMask (U : Units) : (tickSchedule U s).orMask = s.orMask := by unfold tickSchedule; split <;> (try split) <;> simp
@[simp] theorem tickSchedule_sink (U : Units) : (tickSchedule U s).sink = s.sink := by unfold tickSchedule; split <;> (try split) <;> simp
@[simp] theorem tickSchedule_connected (U : Units) : (tickSchedule U s).connected = s.connected := by unfold tickSchedule; split <;> (try split) <;> simp
@[simp] theorem tickSchedule_active (U : Units) : (tickSchedule U s).active = s.active := by unfold tickSchedule; split <;> (try split) <;> simp
@[simp] theorem tickSchedule_seqBase (U : Units) : (tickSchedule U s).seqBase = s.seqBase := by unfold tickSchedule; split <;> (try split) <;> simp
@[simp] theorem tickSchedule_seqCount (U : Units) : (tickSchedule U s).seqCount = s.seqCount := by unfold tickSchedule; split <;> (try split) <;> simp
@[simp] theorem tickSchedule_pos (U : Units) : (tickSchedule U s).pos = s.pos := by unfold tickSchedule; split <;> (try split) <;> simp
@[simp] theorem tickSchedule_phase (U : Units) : (tickSchedule U s).phase = s.phase := by unfold tickSchedule; split <;> (try split) <;> simp
@[simp] theorem tickSchedule_sps (U : Units) : (tickSchedule U s).sps = s.sps := by unfold tickSchedule; split <;> (try split) <;> simp
@[simp] theorem tickSchedule_sw (U : Units) : (tickSchedule U s).sw = s.sw := by unfold tickSchedule; split <;> (try split) <;> simp
@[simp] theorem tickSchedule_sn (U : Units) : (tickSchedule U s).sn = s.sn := by unfold tickSchedule; split <;> (try split) <;> simp
@[simp] theorem tickSchedule_e (U : Units) : (tickSchedule U s).e = s.e := by unfold tickSchedule; split <;> (try split) <;> simp
@[simp] theorem tickSchedule_gate (U : Units) : (tickSchedule U s).gate = s.gate := by unfold tickSchedule; split <;> (try split) <;> simp
@[simp] theorem tickSchedule_pullLimit (U : Units) : (tickSchedule U s).pullLimit = s.pullLimit := by unfold tickSchedule; split <;> (try split) <;> simp
@[simp] theorem tickSchedule_pullCount (U : Units) : (tickSchedule U s).pullCount = s.pullCount := by unfold tickSchedule; split <;> (try split) <;> simp
@[simp] theorem tickSchedule_ctrlHold (U : Units) : (tickSchedule U s).ctrlHold = s.ctrlHold := by unfold tickSchedule; split <;> (try split) <;> simp
@[simp] theorem tickSchedule_tpKeys (U : Units) : (tickSchedule U s).tpKeys = s.tpKeys := by unfold tickSchedule; split <;> (try split) <;> simp
@[simp] theorem tickSchedule_fxKeys (U : Units) : (tickSchedule U s).fxKeys = s.fxKeys := by unfold tickSchedule; split <;> (try split) <;> simp
@[simp] theorem tickSchedule_mem (U : Units) : (tickSchedule U s).mem = s.mem := by unfold tickSchedule; split <;> (try split) <;> simp
@[simp] theorem tickSchedule_inputs (U : Units) : (tickSchedule U s).inputs = s.inputs := by unfold tickSchedule; split <;> (try split) <;> simp
@[simp] theorem tickSchedule_out (U : Units) : (tickSchedule U s).out = s.out := by unfold tickSchedule; split <;> (try split) <;> simp

end Sys2Proof.Machine
end

