-- ==== Sys2Proof/Laws/Arithmetic.lean ====
section
/-! SUPPORT. Reading an `f32` pattern in plain numbers (R170), and the floor of a quotient of naturals. -/

namespace Sys2Proof.Machine

open Sys2Proof

theorem f32Exp_eq (b : Word32) : f32Exp b = b.toNat / 2 ^ 23 % 2 ^ 8 := by
  simp [f32Exp, BitVec.extractLsb'_toNat, Nat.shiftRight_eq_div_pow]

theorem f32Frac_eq (b : Word32) : f32Frac b = b.toNat % 2 ^ 23 := by
  simp [f32Frac, BitVec.extractLsb'_toNat]

theorem f32Sign_iff (b : Word32) : f32Sign b = true ↔ b.toNat / 2 ^ 31 = 1 := by
  have hd := b.isLt
  have : f32Sign b = b.msb := rfl
  rw [this, BitVec.msb_eq_decide]
  simp
  omega

theorem fval_of_finite {b : Word32} {neg : Bool} {mag : ℕ} (h : classify b = .finite neg mag) :
    fval b = (if neg then -1 else 1) * (mag : ℚ) / 2 ^ 149 := by
  simp only [fval, h]

theorem classify_finite {b : Word32} (h : f32Exp b ≠ 255) : ∃ neg mag, classify b = .finite neg mag := by
  unfold classify
  simp only [h, if_false]
  split <;> exact ⟨_, _, rfl⟩

theorem classify_not_finite {b : Word32} (h : f32Exp b = 255) :
    classify b = .nan ∨ classify b = .posInf ∨ classify b = .negInf := by
  unfold classify
  simp only [h, if_true]
  split
  · simp
  · split <;> simp

/-- The floor the spec takes of an exact quotient is the quotient the step computes (R115, R172, R174). -/
theorem floor_natCast_div (a b : ℕ) : ⌊(a : ℚ) / (b : ℚ)⌋ = ((a / b : ℕ) : ℤ) := by
  have := Rat.floor_intCast_div_natCast (a : ℤ) b
  push_cast at this ⊢
  simpa using this

end Sys2Proof.Machine
end

