-- ==== Sys2Proof/Laws/Decode.lean ====
section
/-! SUPPORT. The fields of a command word, both ways (R81). -/

namespace Sys2Proof

theorem getLsbD_cmdWord (o : BitVec 8) (b : BitVec 24) (a : Word32) (i : Nat) :
    (cmdWord o b a).getLsbD i =
      if i < 32 then a.getLsbD i else if i < 56 then b.getLsbD (i - 32) else o.getLsbD (i - 56) := by
  change BitVec.getLsbD (w := 8 + 24 + 32) (o ++ b ++ a) i = _
  simp only [BitVec.getLsbD_append]
  split
  · rfl
  · split <;> split <;> first | rfl | omega

theorem cmdOp_cmdWord (o : BitVec 8) (b : BitVec 24) (a : Word32) : cmdOp (cmdWord o b a) = o := by
  apply BitVec.eq_of_getLsbD_eq
  intro i hi
  have : ¬ 56 + i < 32 := by omega
  simp [cmdOp, getLsbD_cmdWord, hi, this]

theorem cmdB_cmdWord (o : BitVec 8) (b : BitVec 24) (a : Word32) : cmdB (cmdWord o b a) = b := by
  apply BitVec.eq_of_getLsbD_eq
  intro i hi
  simp [cmdB, getLsbD_cmdWord, hi]
  omega

theorem cmdA_cmdWord (o : BitVec 8) (b : BitVec 24) (a : Word32) : cmdA (cmdWord o b a) = a := by
  apply BitVec.eq_of_getLsbD_eq
  intro i hi
  simp [cmdA, getLsbD_cmdWord, hi]

/-- A word is its three fields: no bit lies outside them (R81). -/
theorem cmdWord_fields (w : Word64) : cmdWord (cmdOp w) (cmdB w) (cmdA w) = w := by
  apply BitVec.eq_of_getLsbD_eq
  intro i hi
  simp only [getLsbD_cmdWord, cmdOp, cmdB, cmdA, BitVec.getLsbD_extractLsb']
  split
  · simp [*]
  · split
    · have h1 : i - 32 < 24 := by omega
      have h2 : 32 + (i - 32) = i := by omega
      simp [h1, h2]
    · have h1 : i - 56 < 8 := by omega
      have h2 : 56 + (i - 56) = i := by omega
      simp [h1, h2]

theorem cmdOp_toNat (w : Word64) : (cmdOp w).toNat = w.toNat / 2 ^ 56 := by
  simp [cmdOp, BitVec.extractLsb'_toNat, Nat.shiftRight_eq_div_pow]
  omega

theorem cmdB_toNat (w : Word64) : (cmdB w).toNat = w.toNat / 2 ^ 32 % 2 ^ 24 := by
  simp [cmdB, BitVec.extractLsb'_toNat, Nat.shiftRight_eq_div_pow]

theorem cmdA_toNat (w : Word64) : (cmdA w).toNat = w.toNat % 2 ^ 32 := by
  simp [cmdA, BitVec.extractLsb'_toNat]

theorem acceptOn_ok {p : Port} {z : Bool} {i j : Instr} :
    acceptOn p z i = .ok j ↔ z = true ∧ p ∈ i.ports ∧ i = j := by
  unfold acceptOn
  split
  · split <;> simp_all
  · simp_all

/-- A decoded command is legal on its port (R84), and GET_FORMAT carries the port it arrived on (R188). -/
theorem decodeCommand_legal {p : Port} {w : Word64} {i : Instr} (h : decodeCommand p w = .ok i) :
    p ∈ i.ports ∧ ∀ q, i = .getFormat q → q = p := by
  unfold decodeCommand at h
  simp only at h
  split at h <;> first | (obtain ⟨-, hp, rfl⟩ := acceptOn_ok.1 h; exact ⟨hp, by simp⟩) | cases h

end Sys2Proof
end

