-- ==== Sys2Proof/Laws/Memory.lean ====
section
/-! SUPPORT. The laws of the descriptor memory: a read after a write gives the value written, a write leaves every
other byte alone, and every operation keeps the canonical form (R61, R69). -/

namespace Sys2Proof.Machine

open Sys2Proof

/-! ## Reading after writing one byte -/

theorem Memory.readByte_setByte_other (m : Memory) {x y : Nat} (v : Byte) (h : y ≠ x) :
    (m.setByte x v).readByte y = m.readByte y := by
  induction m with
  | nil =>
    unfold Memory.setByte
    split <;> simp [Memory.readByte, Ne.symm h]
  | cons c m ih =>
    obtain ⟨a, b⟩ := c
    unfold Memory.setByte
    by_cases hlt : x < a
    · by_cases hv : v = unlistedByte <;> simp [hlt, hv, Memory.readByte, Ne.symm h]
    · by_cases heq : x = a
      · subst heq
        by_cases hv : v = unlistedByte <;> simp [hv, Memory.readByte, Ne.symm h]
      · simp [hlt, heq, Memory.readByte, ih]

/-- Below the first listed address every byte is unlisted. -/
theorem Memory.readByte_of_wfFrom {m : Memory} {lo x : Nat} (h : Memory.wfFrom lo m = true) (hx : x < lo) :
    m.readByte x = unlistedByte := by
  induction m generalizing lo with
  | nil => rfl
  | cons c m ih =>
    obtain ⟨a, b⟩ := c
    simp only [Memory.wfFrom, Bool.and_eq_true, decide_eq_true_eq] at h
    have hne : a ≠ x := by omega
    simp [Memory.readByte, hne, ih h.2 (by omega)]

theorem Memory.readByte_setByte_same {m : Memory} {lo x : Nat} (v : Byte) (h : Memory.wfFrom lo m = true) :
    (m.setByte x v).readByte x = v := by
  induction m generalizing lo with
  | nil =>
    unfold Memory.setByte
    split <;> simp_all [Memory.readByte]
  | cons c m ih =>
    obtain ⟨a, b⟩ := c
    simp only [Memory.wfFrom, Bool.and_eq_true, decide_eq_true_eq] at h
    unfold Memory.setByte
    by_cases hlt : x < a
    · by_cases hv : v = unlistedByte
      · have hne : a ≠ x := by omega
        simp [hlt, hv, Memory.readByte, hne, Memory.readByte_of_wfFrom h.2 (show x < a + 1 by omega)]
      · simp [hlt, hv, Memory.readByte]
    · by_cases heq : x = a
      · subst heq
        by_cases hv : v = unlistedByte
        · simp [hv, Memory.readByte_of_wfFrom h.2 (Nat.lt_succ_self x)]
        · simp [hv, Memory.readByte]
      · simp [hlt, heq, Memory.readByte, Ne.symm heq, ih h.2]

/-! ## The canonical form is kept -/

theorem Memory.wfFrom_mono {m : Memory} {lo lo' : Nat} (h : Memory.wfFrom lo m = true) (hle : lo' ≤ lo) :
    Memory.wfFrom lo' m = true := by
  cases m with
  | nil => rfl
  | cons c m =>
    obtain ⟨a, b⟩ := c
    simp only [Memory.wfFrom, Bool.and_eq_true, decide_eq_true_eq] at h ⊢
    exact ⟨⟨⟨by omega, h.1.1.2⟩, h.1.2⟩, h.2⟩

theorem Memory.wfFrom_setByte {m : Memory} {lo x : Nat} (v : Byte) (h : Memory.wfFrom lo m = true) (hlo : lo ≤ x)
    (hx : x < 2 ^ 32) : Memory.wfFrom lo (m.setByte x v) = true := by
  induction m generalizing lo with
  | nil =>
    unfold Memory.setByte
    split <;> simp_all [Memory.wfFrom]
  | cons c m ih =>
    obtain ⟨a, b⟩ := c
    have h' := h
    simp only [Memory.wfFrom, Bool.and_eq_true, decide_eq_true_eq] at h
    unfold Memory.setByte
    by_cases hlt : x < a
    · by_cases hv : v = unlistedByte
      · simp [hlt, hv, h']
      · have ha : x + 1 ≤ a := hlt
        simp only [hlt, hv, if_true, if_false, Memory.wfFrom, Bool.and_eq_true, decide_eq_true_eq]
        exact ⟨⟨⟨hlo, hx⟩, by simpa using hv⟩, ⟨⟨ha, h.1.1.2⟩, h.1.2⟩, h.2⟩
    · by_cases heq : x = a
      · subst heq
        by_cases hv : v = unlistedByte
        · simp [hv, Memory.wfFrom_mono h.2 (show lo ≤ x + 1 by omega)]
        · simp only [lt_irrefl, hv, if_true, if_false, Memory.wfFrom, Bool.and_eq_true, decide_eq_true_eq]
          exact ⟨⟨⟨hlo, hx⟩, by simpa using hv⟩, h.2⟩
      · simp only [hlt, heq, if_false, Memory.wfFrom, Bool.and_eq_true, decide_eq_true_eq]
        exact ⟨h.1, ih h.2 (by omega)⟩

/-- The canonical form survives a byte written at a 32-bit address. -/
theorem Memory.wf_setByte {m : Memory} {x : Nat} (v : Byte) (h : m.wf = true) (hx : x < 2 ^ 32) :
    (m.setByte x v).wf = true :=
  Memory.wfFrom_setByte v h (Nat.zero_le x) hx

/-- The canonical form survives every host write. -/
theorem Memory.wf_writeBytes {m : Memory} (a : Word32) (bytes : List Byte) (h : m.wf = true) :
    (m.writeBytes a bytes).wf = true := by
  induction bytes generalizing m a with
  | nil => exact h
  | cons b bs ih => exact ih _ (Memory.wf_setByte b h a.isLt)

/-! ## Reading after writing many bytes -/

/-- The address of byte `k + 1` from `a` is that of byte `k` from `a + 1`. -/
theorem byteAddr_succ (a : Word32) (k : Nat) :
    a + BitVec.ofNat 32 (k + 1) = a + 1#32 + BitVec.ofNat 32 k := by
  rw [BitVec.add_assoc, Nat.add_comm k 1, BitVec.ofNat_add]

theorem Memory.readByte_writeBytes_other (m : Memory) (a : Word32) (bytes : List Byte) {x : Nat}
    (h : ∀ k, k < bytes.length → x ≠ (a + BitVec.ofNat 32 k).toNat) :
    (m.writeBytes a bytes).readByte x = m.readByte x := by
  induction bytes generalizing m a with
  | nil => rfl
  | cons b bs ih =>
    have h0 : x ≠ a.toNat := by simpa using h 0 (by simp)
    have hs : ∀ k, k < bs.length → x ≠ (a + 1#32 + BitVec.ofNat 32 k).toNat := fun k hk => by
      rw [← byteAddr_succ]; exact h (k + 1) (by simpa using hk)
    rw [Memory.writeBytes, ih _ _ hs, Memory.readByte_setByte_other _ _ h0]

theorem Memory.readByte_writeBytes_same {m : Memory} (a : Word32) (bytes : List Byte) (hwf : m.wf = true)
    (hlen : bytes.length ≤ 2 ^ 32) {k : Nat} (hk : k < bytes.length) :
    (m.writeBytes a bytes).readByte (a + BitVec.ofNat 32 k).toNat = bytes[k] := by
  induction bytes generalizing m a k with
  | nil => simp at hk
  | cons b bs ih =>
    have hl : bs.length + 1 ≤ 2 ^ 32 := by simpa using hlen
    cases k with
    | zero =>
      have hne : ∀ j, j < bs.length → a.toNat ≠ (a + 1#32 + BitVec.ofNat 32 j).toNat := by
        intro j hj
        rw [← byteAddr_succ]
        simp only [BitVec.toNat_add, BitVec.toNat_ofNat]
        have := a.isLt
        omega
      simp only [Memory.writeBytes, BitVec.add_zero, List.getElem_cons_zero]
      rw [Memory.readByte_writeBytes_other _ _ _ hne]
      exact Memory.readByte_setByte_same (lo := 0) b hwf
    | succ j =>
      have hj : j < bs.length := by simpa using hk
      rw [byteAddr_succ]
      simpa [Memory.writeBytes] using
        ih (a + 1#32) (Memory.wf_setByte b hwf a.isLt) (by omega) hj

/-! ## Words and records -/

/-- A word is its four bytes, the least significant at the lowest address (R62). -/
theorem Memory.readWord_of_bytes {m : Memory} {a w : Word32}
    (h0 : m.readByte a.toNat = w.extractLsb' 0 8) (h1 : m.readByte (a + 1#32).toNat = w.extractLsb' 8 8)
    (h2 : m.readByte (a + 2#32).toNat = w.extractLsb' 16 8)
    (h3 : m.readByte (a + 3#32).toNat = w.extractLsb' 24 8) : m.readWord a = w := by
  rw [Memory.readWord, h0, h1, h2, h3]
  apply BitVec.eq_of_getLsbD_eq
  intro i hi
  simp only [BitVec.getLsbD_append, BitVec.getLsbD_extractLsb']
  split
  · simp [*]
  · split
    · have e1 : i - 8 < 8 := by omega
      have e2 : 8 + (i - 8) = i := by omega
      simp [e1, e2]
    · split
      · have e1 : i - 8 - 8 < 8 := by omega
        have e2 : 16 + (i - 8 - 8) = i := by omega
        simp [e1, e2]
      · have e1 : i - 8 - 8 - 8 < 8 := by omega
        have e2 : 24 + (i - 8 - 8 - 8) = i := by omega
        simp [e1, e2]

/-- A word stored among other bytes is read back (R62). -/
theorem Memory.readWord_writeBytes {m : Memory} (a : Word32) (bytes : List Byte) (hwf : m.wf = true)
    (hlen : bytes.length ≤ 2 ^ 32) {k : Nat} {w : Word32} (hk : k + 4 ≤ bytes.length)
    (h0 : bytes[k] = w.extractLsb' 0 8) (h1 : bytes[k + 1] = w.extractLsb' 8 8)
    (h2 : bytes[k + 2] = w.extractLsb' 16 8) (h3 : bytes[k + 3] = w.extractLsb' 24 8) :
    (m.writeBytes a bytes).readWord (a + BitVec.ofNat 32 k) = w := by
  have same : ∀ j, (hj : k + j < bytes.length) →
      (m.writeBytes a bytes).readByte (a + BitVec.ofNat 32 k + BitVec.ofNat 32 j).toNat = bytes[k + j] := by
    intro j hj
    rw [BitVec.add_assoc, ← BitVec.ofNat_add]
    exact Memory.readByte_writeBytes_same a bytes hwf hlen hj
  refine Memory.readWord_of_bytes ?_ ((same 1 (by omega)).trans h1) ((same 2 (by omega)).trans h2)
    ((same 3 (by omega)).trans h3)
  rw [Memory.readByte_writeBytes_same a bytes hwf hlen (k := k) (by omega), h0]

theorem recordBytes_length (v : Record) : (recordBytes v).length = 64 := by
  obtain ⟨⟨l⟩, hv⟩ := v
  simp at hv
  simp [recordBytes, wordBytes, List.length_flatMap, hv]

/-- Byte `j` of word `i` of a record stands at offset `4*i + j` (R62, R90). -/
theorem recordBytes_getElem (v : Record) (i : Nat) (hi : i < 16) : ∃ h : 4 * i + 4 ≤ (recordBytes v).length,
    (recordBytes v)[4 * i] = v[i].extractLsb' 0 8 ∧ (recordBytes v)[4 * i + 1] = v[i].extractLsb' 8 8 ∧
    (recordBytes v)[4 * i + 2] = v[i].extractLsb' 16 8 ∧ (recordBytes v)[4 * i + 3] = v[i].extractLsb' 24 8 := by
  obtain ⟨⟨l⟩, hv⟩ := v
  simp at hv
  have gen : ∀ (l : List Word32) (i : Nat) (hi : i < l.length), ∃ h : 4 * i + 4 ≤ (l.flatMap wordBytes).length,
      (l.flatMap wordBytes)[4 * i] = l[i].extractLsb' 0 8 ∧
      (l.flatMap wordBytes)[4 * i + 1] = l[i].extractLsb' 8 8 ∧
      (l.flatMap wordBytes)[4 * i + 2] = l[i].extractLsb' 16 8 ∧
      (l.flatMap wordBytes)[4 * i + 3] = l[i].extractLsb' 24 8 := by
    intro l
    induction l with
    | nil => intro i hi; simp at hi
    | cons w ws ih =>
      intro i hi
      cases i with
      | zero => exact ⟨by simp [wordBytes], by simp [wordBytes]⟩
      | succ j =>
        obtain ⟨h, r⟩ := ih j (by simpa using hi)
        refine ⟨by simp [wordBytes] at h ⊢; omega, ?_⟩
        simpa [wordBytes, Nat.mul_add] using r
  exact gen l i (by omega)

/-- A record is read alike in two memories that agree on its 64 bytes (R66). -/
theorem Memory.readRecord_congr {m m' : Memory} {a : Word32}
    (h : ∀ j < 64, m'.readByte (a + BitVec.ofNat 32 j).toNat = m.readByte (a + BitVec.ofNat 32 j).toNat) :
    m'.readRecord a = m.readRecord a := by
  have word : ∀ i < 16, m'.readWord (a + BitVec.ofNat 32 (4 * i)) = m.readWord (a + BitVec.ofNat 32 (4 * i)) := by
    intro i hi
    have byte : ∀ j < 4, m'.readByte (a + BitVec.ofNat 32 (4 * i) + BitVec.ofNat 32 j).toNat =
        m.readByte (a + BitVec.ofNat 32 (4 * i) + BitVec.ofNat 32 j).toNat := fun j hj => by
      rw [BitVec.add_assoc, ← BitVec.ofNat_add]
      exact h _ (by omega)
    have h0 := byte 0 (by omega)
    simp only [BitVec.add_zero] at h0
    rw [Memory.readWord, Memory.readWord, h0, byte 1 (by omega), byte 2 (by omega), byte 3 (by omega)]
  unfold Memory.readRecord Effect.ofWords
  congr 1 <;> first | exact word _ (by omega) | (congr 1 <;> exact word _ (by omega))

end Sys2Proof.Machine
end

