-- ==== Sys2Proof/Laws/Operands.lean ====
section
/-! SUPPORT. The operand forms, the response word and the conditions of a TICK in plain numbers (R83, R86, R152). -/

namespace Sys2Proof.Machine

open Sys2Proof

/-! ## Operands -/

theorem positiveSigned_iff (a : Word32) : positiveSigned a = true ↔ 0 < a.toInt := by simp [positiveSigned]

/-- A positive `signed32` fits 31 bits, so nothing of the operand is dropped (R216). -/
theorem low31_toNat {a : Word32} (h : 0 < a.toInt) : (low31 a).toNat = a.toNat := by
  rw [BitVec.toInt_eq_toNat_cond] at h
  have : a.toNat < 2 ^ 31 := by split at h <;> omega
  simp [low31]
  omega

theorem low31_eq (a : Word32) : low31 a = BitVec.ofNat 31 a.toNat := by
  apply BitVec.eq_of_toNat_eq
  simp [low31]

theorem low16_eq (a : Word32) : low16 a = BitVec.ofNat 16 a.toNat := by
  apply BitVec.eq_of_toNat_eq
  simp [low16]

theorem fits16_iff (a : Word32) : fits16 a = true ↔ a.toNat < 2 ^ 16 := by
  simp only [fits16, beq_iff_eq, BitVec.toNat_eq, BitVec.extractLsb'_toNat, Nat.shiftRight_eq_div_pow]
  have := a.isLt
  simp
  omega

theorem lengthOk_iff (len : BitVec 24) : lengthOk len = true ↔ len.toNat ≠ 0 ∧ len.toNat % 64 = 0 := by
  simp [lengthOk, Config.recordBytes, BitVec.toNat_eq]

theorem addressOk_iff (base : Word32) (len : BitVec 24) :
    addressOk base len = true ↔ base.toNat % 4 = 0 ∧ base.toNat + len.toNat ≤ 2 ^ 32 := by
  rw [addressOk, Bool.and_eq_true, beq_iff_eq, decide_eq_true_eq]
  rfl

/-! ## Responses -/

/-- The numeric value of a response word (R86). -/
theorem rspWord_toNat (st : Status) (d : Word32) : (rspWord st d).toNat = st.code.toNat * 2 ^ 56 + d.toNat := by
  have hd := d.isLt
  have : st.code.toNat < 3 := by cases st <;> decide
  unfold rspWord
  change BitVec.toNat (w := 8 + 24 + 32) _ = _
  rw [BitVec.toNat_append, BitVec.toNat_append, ← Nat.shiftLeft_add_eq_or_of_lt hd,
    ← Nat.shiftLeft_add_eq_or_of_lt (by simp)]
  simp [Nat.shiftLeft_eq]
  omega

theorem rspWord_ok_zext32 {n : Nat} (v : BitVec n) (hn : n ≤ 32) :
    rspWord .ok (zext32 v) = BitVec.ofNat 64 v.toNat := by
  apply BitVec.eq_of_toNat_eq
  rw [rspWord_toNat]
  have h : v.toNat < 2 ^ 32 := lt_of_lt_of_le v.isLt (Nat.pow_le_pow_right (by omega) hn)
  simp [Status.code, zext32]
  omega

theorem rspWord_ok_zero : rspWord .ok 0#32 = 0#64 := by decide

theorem rspWord_invalid_zero : rspWord .invalidParameter 0#32 = 0x0100000000000000#64 := by decide

theorem rspWord_illegal_zero : rspWord .illegalCommand 0#32 = 0x0200000000000000#64 := by decide

/-- The three fields of a response word (R86). -/
theorem rspWord_status (st : Status) (d : Word32) : (rspWord st d).toNat / 2 ^ 56 = st.code.toNat := by
  rw [rspWord_toNat]
  have := d.isLt
  omega

theorem rspWord_middle (st : Status) (d : Word32) : (rspWord st d).toNat / 2 ^ 32 % 2 ^ 24 = 0 := by
  rw [rspWord_toNat]
  have := d.isLt
  omega

theorem rspWord_data (st : Status) (d : Word32) : (rspWord st d).toNat % 2 ^ 32 = d.toNat := by
  rw [rspWord_toNat]
  have := d.isLt
  omega

/-! ## Conditions of a TICK -/

theorem atStepBoundary_iff (s : State) : atStepBoundary s = true ↔
    s.sw.toNat ≠ 0 ∧ s.sps.toNat ≠ 0 ∧ s.sw.toNat % s.sps.toNat = 0 ∧ s.stepIndex.toNat + 1 < s.e.steps.toNat := by
  simp only [atStepBoundary, Bool.and_eq_true, bne_iff_ne, ne_eq, beq_iff_eq, decide_eq_true_eq, BitVec.toNat_eq,
    and_assoc, BitVec.toNat_ofNat, Nat.zero_mod]
  constructor <;> (rintro ⟨h1, h2, h3, h4⟩; exact ⟨h1, h2, h3, by omega⟩)

theorem atEffectStart_iff (s : State) : atEffectStart s = true ↔ s.sw.toNat = 0 := by
  simp [atEffectStart, BitVec.toNat_eq]

/-! ## Sample counts -/

/-- `SN` never reaches 2^54, so its 64 bits drop nothing (R36, R115, R171). -/
theorem samplesRequired_toNat (d : Word32) (r : BitVec 31) :
    (samplesRequired d r).toNat = (d.toNat * r.toNat + 500) / 1000 ∧ (samplesRequired d r).toNat < 2 ^ 54 := by
  have h1 : d.toNat * r.toNat ≤ (2 ^ 32 - 1) * (2 ^ 31 - 1) :=
    Nat.mul_le_mul (by have := d.isLt; omega) (by have := r.isLt; omega)
  have h2 : (d.toNat * r.toNat + 500) / 1000 < 2 ^ 54 := by omega
  have h3 : (samplesRequired d r).toNat = (d.toNat * r.toNat + 500) / 1000 := by
    simp [samplesRequired]
    omega
  exact ⟨h3, h3 ▸ h2⟩

theorem samplesPerStep_toNat (n : BitVec 64) (steps : Word32) :
    (samplesPerStep n steps).toNat = n.toNat / steps.toNat := by
  have : n.toNat / steps.toNat ≤ n.toNat := Nat.div_le_self _ _
  have := n.isLt
  simp [samplesPerStep]
  omega

end Sys2Proof.Machine
end

