-- ==== Sys2Proof/Laws/PerInstr.lean ====
section
/-! SUPPORT. For every instruction: its encoding lies in its own row of spec/opcode_table.json (`match`, `mask`,
`port`), one lemma per constructor. -/

namespace Sys2Proof.Laws.OpcodeRow

open Sys2Proof

/-- `match` and `mask` of the instruction's row of the opcode table. -/
def row : Instr → Word64 × Word64
  | .play _ _ => (0x0100000000000000#64, 0xFF00000000000000#64)
  | .setSampleRate _ => (0x0200000000000000#64, 0xFFFFFFFF00000000#64)
  | .getSampleRate => (0x0300000000000000#64, 0xFFFFFFFFFFFFFFFF#64)
  | .setSampleRange _ => (0x0400000000000000#64, 0xFFFFFFFF00000000#64)
  | .getSampleRange => (0x0500000000000000#64, 0xFFFFFFFFFFFFFFFF#64)
  | .setBufferSize _ => (0x0600000000000000#64, 0xFFFFFFFF00000000#64)
  | .setOrMask _ => (0x0700000000000000#64, 0xFFFFFFFF00000000#64)
  | .connect _ => (0x0800000000000000#64, 0xFFFFFFFF00000000#64)
  | .getFormat _ => (0x0900000000000000#64, 0xFFFFFFFFFFFFFFFF#64)
  | .pull => (0x0A00000000000000#64, 0xFFFFFFFFFFFFFFFF#64)
  | .effect _ => (0#64, 0#64)

/-- A command's word carries its row's fixed bits and goes to a port of its row; a record goes to no port. -/
def Statement (i : Instr) : Prop :=
  match encode i with
  | .command p w => p ∈ i.ports ∧ w &&& (row i).2 = (row i).1
  | .record _ => i.ports = []

theorem cmdWord_and (o m : BitVec 8) (b n : BitVec 24) (a k : Word32) :
    cmdWord o b a &&& cmdWord m n k = cmdWord (o &&& m) (b &&& n) (a &&& k) := by
  apply BitVec.eq_of_getLsbD_eq
  intro i _
  simp only [BitVec.getLsbD_and, getLsbD_cmdWord]
  split
  · rfl
  · split <;> rfl

/-- Bits under the mask of a word whose opcode alone is fixed. -/
theorem cmdWord_opcode (o : BitVec 8) (b : BitVec 24) (a : Word32) :
    cmdWord o b a &&& 0xFF00000000000000#64 = cmdWord o 0#24 0#32 := by
  rw [show (0xFF00000000000000#64 : Word64) = cmdWord 0xFF#8 0#24 0#32 by decide, cmdWord_and,
    show (0xFF#8 : BitVec 8) = BitVec.allOnes 8 by decide, BitVec.and_allOnes, BitVec.and_zero, BitVec.and_zero]

/-- Bits under the mask of a word whose `B` must be zero. -/
theorem cmdWord_noB (o : BitVec 8) (a : Word32) :
    cmdWord o 0#24 a &&& 0xFFFFFFFF00000000#64 = cmdWord o 0#24 0#32 := by
  rw [show (0xFFFFFFFF00000000#64 : Word64) = cmdWord 0xFF#8 0xFFFFFF#24 0#32 by decide, cmdWord_and,
    show (0xFF#8 : BitVec 8) = BitVec.allOnes 8 by decide, BitVec.and_allOnes, BitVec.zero_and, BitVec.and_zero]

theorem play (base : Word32) (len : BitVec 24) : Statement (.play base len) :=
  ⟨by simp [Instr.ports], (cmdWord_opcode _ _ _).trans rfl⟩

theorem setSampleRate (a : Word32) : Statement (.setSampleRate a) :=
  ⟨by simp [Instr.ports], (cmdWord_noB _ _).trans rfl⟩

theorem getSampleRate : Statement .getSampleRate := ⟨by simp [Instr.ports], by decide⟩

theorem setSampleRange (a : Word32) : Statement (.setSampleRange a) :=
  ⟨by simp [Instr.ports], (cmdWord_noB _ _).trans rfl⟩

theorem getSampleRange : Statement .getSampleRange := ⟨by simp [Instr.ports], by decide⟩

theorem setBufferSize (a : Word32) : Statement (.setBufferSize a) :=
  ⟨by simp [Instr.ports], (cmdWord_noB _ _).trans rfl⟩

theorem setOrMask (a : Word32) : Statement (.setOrMask a) :=
  ⟨by simp [Instr.ports], (cmdWord_noB _ _).trans rfl⟩

theorem connect (a : Word32) : Statement (.connect a) :=
  ⟨by simp [Instr.ports], (cmdWord_noB _ _).trans rfl⟩

theorem getFormat (p : Port) : Statement (.getFormat p) := by
  cases p <;> exact ⟨by simp [Instr.ports], by decide⟩

theorem pull : Statement .pull := ⟨by simp [Instr.ports], by decide⟩

theorem effect (r : Effect) : Statement (.effect r) := by
  simp [Statement, encode, Instr.ports]

end Sys2Proof.Laws.OpcodeRow
end

