-- ==== Sys2Proof/Laws/Queue.lean ====
section
/-! SUPPORT. What LOAD and PLAY validation can do, said once (R111, R114, R116). -/

namespace Sys2Proof.Machine

open Sys2Proof

/-! ## Addresses -/

/-- `b + 64*i` in the two spellings (R66). -/
theorem recordAddr_eq (b : Word32) (i : BitVec 18) : recordAddr b i = b + BitVec.ofNat 32 (64 * i.toNat) := by
  unfold recordAddr
  congr 1

theorem recordAtPos_eq (s : State) :
    recordAtPos s = s.mem.readRecord (s.seqBase + BitVec.ofNat 32 (64 * s.pos.toNat)) := by
  rw [recordAtPos, recordAddr_eq]

/-! ## One record -/

theorem latch_of_usable {r : Effect} {s : State} (h : recordUsable s r = true) : latch r s = .ok (latched r s) := by
  simp [latch, h]

theorem latch_of_unusable {r : Effect} {s : State} (h : recordUsable s r = false) :
    latch r s = .error .invalidRecord := by
  simp [latch, h]

/-- Usable, in the spec's words (R75, U3). -/
theorem recordUsable_iff (s : State) (r : Effect) :
    recordUsable s r = true ↔ r.steps ≠ 0#32 ∧ r.tpSel ∈ s.tpKeys ∧
      ∀ b ∈ [r.fx0, r.fx1, r.fx2], b.sel = 0#32 ∨ b.sel ∈ s.fxKeys := by
  simp [recordUsable, knownTonePrint, knownToneEffect, and_assoc]

/-- PLAY accepts a record exactly if LOAD has a result for it (R111, R114). -/
theorem recordAccepted_eq (s : State) (r : Word32) :
    recordAccepted s r = recordUsable s (s.mem.readRecord r) := rfl

/-! ## LOAD -/

theorem load_exhausted {s : State} (h : s.pos = s.seqCount) : load s = .ok (endSequence s) := by
  simp [load, h, loadLoop]

/-- LOAD runs the record at `POS` (R114). -/
theorem load_runs_record {s : State} (h : s.pos ≠ s.seqCount) : load s = runRecord (recordAtPos s) s := by
  obtain ⟨n, hn⟩ : ∃ n, (s.seqCount - s.pos).toNat = n + 1 := by
    refine Nat.exists_eq_succ_of_ne_zero fun h0 => h ?_
    bv_omega
  have hn' : (s.seqCount - (s.pos + 1#18)).toNat = n := by bv_omega
  rw [load, hn, loadLoop, runRecord]
  by_cases hu : recordUsable s (recordAtPos s) = true
  · rw [latch_of_usable hu]
    simp only [load, advancePos_seqCount, advancePos_pos, latched_seqCount, latched_pos, hn']
  · rw [latch_of_unusable (Bool.eq_false_iff.2 hu)]

/-- The state in which LOAD's loop goes round again after a record without samples (R116). -/
def skipped (s : State) : State := advancePos (latched (recordAtPos s) s)

/-- The four ways LOAD goes from a state: the induction over its loop, packaged once. -/
theorem load_induct {P : State → Except Fault State → Prop}
    (ended : ∀ s, s.pos = s.seqCount → P s (.ok (endSequence s)))
    (faulted : ∀ s, s.pos ≠ s.seqCount → recordUsable s (recordAtPos s) = false → P s (.error .invalidRecord))
    (loaded : ∀ s, s.pos ≠ s.seqCount → recordUsable s (recordAtPos s) = true →
      samplesRequired (recordAtPos s).duration s.sampleRate ≠ 0#64 → P s (.ok (latched (recordAtPos s) s)))
    (skip : ∀ s, s.pos ≠ s.seqCount → recordUsable s (recordAtPos s) = true →
      samplesRequired (recordAtPos s).duration s.sampleRate = 0#64 →
      P (skipped s) (load (skipped s)) → P s (load (skipped s)))
    (s : State) : P s (load s) := by
  obtain ⟨n, hn⟩ : ∃ n, (s.seqCount - s.pos).toNat = n := ⟨_, rfl⟩
  induction n generalizing s with
  | zero =>
    have h : s.pos = s.seqCount := by bv_omega
    rw [load_exhausted h]
    exact ended s h
  | succ n ih =>
    have h : s.pos ≠ s.seqCount := fun h => by simp [h] at hn
    rw [load_runs_record h, runRecord]
    by_cases hu : recordUsable s (recordAtPos s) = true
    · rw [latch_of_usable hu]
      by_cases h0 : samplesRequired (recordAtPos s).duration s.sampleRate = 0#64
      · simp only [latched_sn, h0, if_true]
        refine skip s h hu h0 (ih (skipped s) ?_)
        simp only [skipped, advancePos_pos, advancePos_seqCount, latched_seqCount, latched_pos]
        bv_omega
      · simp only [latched_sn, h0, if_false]
        exact loaded s h hu h0
    · have hu' := Bool.eq_false_iff.2 hu
      rw [latch_of_unusable hu']
      exact faulted s h hu'

/-- LOAD writes the latch, the render registers, `POS`, `ACTIVE` and the history, and nothing else (R48, R114). -/
theorem load_frame {s t : State} (h : load s = .ok t) :
    t = { s with
      e := t.e, freq := t.freq, vol := t.vol, phase := t.phase, stepIndex := t.stepIndex, sw := t.sw, sn := t.sn,
      sps := t.sps, pos := t.pos, active := t.active, out := t.out } := by
  refine load_induct (P := fun s r => ∀ t, r = .ok t → t = { s with
      e := t.e, freq := t.freq, vol := t.vol, phase := t.phase, stepIndex := t.stepIndex, sw := t.sw, sn := t.sn,
      sps := t.sps, pos := t.pos, active := t.active, out := t.out }) ?_ ?_ ?_ ?_ s t h
  · rintro s - t ht; cases ht; rfl
  · rintro s - - t ht; cases ht
  · rintro s - - - t ht; cases ht; rfl
  · rintro s - - - ih t ht
    rw [ih t ht]
    rfl

/-- LOAD leaves an active effect: the record at `POS`, freshly latched, with at least one sample (R44, R114). -/
structure FreshlyLoaded (s t : State) : Prop where
  out_eq : t.out = s.out
  active_eq : t.active = s.active
  pos_ne : t.pos ≠ t.seqCount
  record : t.e = recordAtPos t
  usable : recordUsable t t.e = true
  freq_eq : t.freq = t.e.freq
  vol_eq : t.vol = t.e.vol
  phase_eq : t.phase = 0#32
  step_eq : t.stepIndex = 0#32
  sw_eq : t.sw = 0#64
  sn_eq : t.sn = samplesRequired t.e.duration s.sampleRate
  sn_ne : t.sn ≠ 0#64
  sps_eq : t.sps = samplesPerStep t.sn t.e.steps

/-- LOAD ends the sequence: idle at `POS` = `SEQ_COUNT`, one release event; the render registers are those of
before, or of a record without samples (R45, R114, R116). -/
structure SequenceEnded (s t : State) : Prop where
  out_eq : t.out = s.out ++ [.release s.seqBase]
  active_eq : t.active = false
  pos_eq : t.pos = t.seqCount
  counts : (t.sw = s.sw ∧ t.sn = s.sn) ∨ (t.sw = 0#64 ∧ t.sn = 0#64)

/-- Everything LOAD can do when it does not fault. -/
theorem load_cases {s t : State} (h : load s = .ok t) : FreshlyLoaded s t ∨ SequenceEnded s t := by
  refine load_induct (P := fun s r => ∀ t, r = .ok t → FreshlyLoaded s t ∨ SequenceEnded s t) ?_ ?_ ?_ ?_ s t h
  · rintro s hp t ht; cases ht
    exact .inr ⟨rfl, rfl, hp, .inl ⟨rfl, rfl⟩⟩
  · rintro s - - t ht; cases ht
  · rintro s hp hu hs t ht; cases ht
    exact .inl ⟨rfl, rfl, hp, rfl, hu, rfl, rfl, rfl, rfl, rfl, rfl, hs, rfl⟩
  · rintro s - - h0 ih t ht
    rcases ih t ht with ⟨h1, h2, h3, h4, h5, h6, h7, h8, h9, h10, h11, h12, h13⟩ | ⟨h1, h2, h3, h4⟩
    · exact .inl ⟨h1, h2, h3, h4, h5, h6, h7, h8, h9, h10, h11, h12, h13⟩
    · refine .inr ⟨h1, h2, h3, .inr ?_⟩
      rcases h4 with ⟨h4, h5⟩ | h4
      · exact ⟨h4, h5.trans h0⟩
      · exact h4

/-- What LOAD can add to the history: nothing, or the one release event (R114, R118). -/
theorem load_out {s t : State} (h : load s = .ok t) : t.out = s.out ∨ t.out = s.out ++ [.release s.seqBase] := by
  rcases load_cases h with h | h
  · exact .inl h.out_eq
  · exact .inr h.out_eq

/-- LOAD moves `POS` forward only, and not past `SEQ_COUNT` (R29, R121). -/
theorem load_pos_le {s t : State} (h : load s = .ok t) (hp : s.pos.toNat ≤ s.seqCount.toNat) :
    s.pos.toNat ≤ t.pos.toNat ∧ t.pos.toNat ≤ t.seqCount.toNat := by
  revert hp t
  refine load_induct (P := fun s r => ∀ {t}, r = .ok t → s.pos.toNat ≤ s.seqCount.toNat →
    s.pos.toNat ≤ t.pos.toNat ∧ t.pos.toNat ≤ t.seqCount.toNat) ?_ ?_ ?_ ?_ s
  · rintro s - t ht hle; cases ht; exact ⟨le_rfl, hle⟩
  · rintro s - - t ht; cases ht
  · rintro s - - - t ht hle; cases ht; exact ⟨le_rfl, hle⟩
  · intro s hne _ _ ih t ht hle
    have hp : (skipped s).pos.toNat = s.pos.toNat + 1 := by
      simp only [skipped, advancePos_pos, latched_pos]
      bv_omega
    have hc : (skipped s).seqCount = s.seqCount := rfl
    have := ih ht (by rw [hp, hc]; bv_omega)
    omega

/-- What lies outside LOAD's reach is the same in both states (R48, R69). -/
structure QueueOnly (s t : State) : Prop where
  config : SameConfiguration s t
  gate : SameGate s t
  base : t.seqBase = s.seqBase
  count : t.seqCount = s.seqCount
  hold : t.ctrlHold = s.ctrlHold
  env : SameEnvironment s t

theorem QueueOnly.trans {s t u : State} (h : QueueOnly s t) (g : QueueOnly t u) : QueueOnly s u := by
  obtain ⟨⟨a1, a2, a3, a4, a5, a6⟩, ⟨b1, b2, b3⟩, c1, c2, c3, d1, d2, d3, d4⟩ := h
  obtain ⟨⟨e1, e2, e3, e4, e5, e6⟩, ⟨f1, f2, f3⟩, g1, g2, g3, h1, h2, h3, h4⟩ := g
  exact ⟨⟨e1.trans a1, e2.trans a2, e3.trans a3, e4.trans a4, e5.trans a5, e6.trans a6⟩,
    ⟨f1.trans b1, f2.trans b2, f3.trans b3⟩, g1.trans c1, g2.trans c2, g3.trans c3,
    fun x => (h1 x).trans (d1 x), h2.trans d2, h3.trans d3, h4.trans d4⟩

theorem load_queueOnly {s t : State} (h : load s = .ok t) : QueueOnly s t := by
  rw [load_frame h]
  constructor <;> simp [SameConfiguration, SameGate, SameEnvironment]

/-- The two ways a fetched record ends: it is latched, or it has no samples and LOAD goes on (R114, R116). -/
theorem runRecord_cases {r : Effect} {s t : State} (h : runRecord r s = .ok t) :
    recordUsable s r = true ∧
      ((samplesRequired r.duration s.sampleRate ≠ 0#64 ∧ t = latched r s) ∨
       (samplesRequired r.duration s.sampleRate = 0#64 ∧ load (advancePos (latched r s)) = .ok t)) := by
  unfold runRecord at h
  cases hu : recordUsable s r with
  | false => rw [latch_of_unusable hu] at h; cases h
  | true =>
    rw [latch_of_usable hu] at h
    by_cases h0 : (latched r s).sn = 0#64
    · simp only [if_pos h0] at h
      exact ⟨rfl, .inr ⟨h0, h⟩⟩
    · simp only [if_neg h0] at h
      cases h
      exact ⟨rfl, .inl ⟨h0, rfl⟩⟩

/-! ## PLAY install -/

/-- What the install writes before LOAD, in one record (R112, R119). -/
theorem installSequence_eq (b : Word32) (l : BitVec 24) (s : State) :
    installSequence b l s = { s with
      ctrlHold := none
      seqBase := b
      seqCount := BitVec.ofNat 18 (recordCount l)
      pos := 0#18
      active := true
      out := s.out ++ (if s.active then [.release s.seqBase] else []) } := by
  unfold installSequence
  split <;> simp [emitRelease]

/-- The record count of a legal length fits its 18 bits (R28, R112). -/
theorem recordCount_toNat (l : BitVec 24) : (BitVec.ofNat 18 (recordCount l)).toNat = l.toNat / 64 := by
  have := l.isLt
  simp [recordCount, Config.recordBytes]
  omega

/-! ## PLAY validation -/

theorem recordsAccepted_iff (s : State) (n : Nat) (r : Word32) :
    recordsAccepted s n r = true ↔ ∀ i < n, recordAccepted s (r + BitVec.ofNat 32 (64 * i)) = true := by
  induction n generalizing r with
  | zero => simp [recordsAccepted]
  | succ n ih =>
    have step : ∀ i, r + 64#32 + BitVec.ofNat 32 (64 * i) = r + BitVec.ofNat 32 (64 * (i + 1)) := fun i => by
      rw [BitVec.add_assoc, ← BitVec.ofNat_add, show 64 * (i + 1) = 64 + 64 * i by ring]
    rw [recordsAccepted, Bool.and_eq_true, ih]
    constructor
    · rintro ⟨h0, hs⟩ (_ | i) hi
      · simpa using h0
      · rw [← step]; exact hs i (by omega)
    · intro h
      refine ⟨by simpa using h 0 (by omega), fun i hi => ?_⟩
      rw [step]; exact h (i + 1) (by omega)

theorem recordAccepted_iff (s : State) (r : Word32) : recordAccepted s r = true ↔ RecordAcceptable s r := by
  have three : ∀ P : Nat → Prop, (∀ j < 3, P j) ↔ P 0 ∧ P 1 ∧ P 2 := fun P =>
    ⟨fun h => ⟨h 0 (by omega), h 1 (by omega), h 2 (by omega)⟩, fun ⟨h0, h1, h2⟩ j hj => by
      interval_cases j <;> assumption⟩
  have e1 : r + 20#32 + BitVec.ofNat 32 (12 * 1) = r + 32#32 := by rw [BitVec.add_assoc]; rfl
  have e2 : r + 20#32 + BitVec.ofNat 32 (12 * 2) = r + 44#32 := by rw [BitVec.add_assoc]; rfl
  rw [RecordAcceptable, three, e1, e2]
  simp [recordAccepted, knownTonePrint, knownToneEffect, and_assoc]

/-- The boolean checks of PLAY are the conditions of R111. -/
theorem playValid_iff (s : State) (base : Word32) (len : BitVec 24) :
    playValid base len s = true ↔ PlayAcceptable s base len := by
  have hl : lengthOk len = true ↔ len.toNat ≠ 0 ∧ len.toNat % 64 = 0 := by
    simp [lengthOk, Config.recordBytes, BitVec.toNat_eq]
  have ha : addressOk base len = true ↔ base.toNat % 4 = 0 ∧ base.toNat + len.toNat ≤ 2 ^ 32 := by
    rw [addressOk, Bool.and_eq_true, beq_iff_eq, decide_eq_true_eq]; rfl
  simp only [playValid, Bool.and_eq_true, hl, ha, recordsAccepted_iff, recordAccepted_iff, PlayAcceptable,
    recordCount, Config.recordBytes]
  tauto

/-- Acceptance depends on memory and the tables alone (R111). -/
theorem recordsAccepted_congr {s t : State} (h1 : t.mem = s.mem) (h2 : t.tpKeys = s.tpKeys)
    (h3 : t.fxKeys = s.fxKeys) (n : Nat) (r : Word32) : recordsAccepted t n r = recordsAccepted s n r := by
  have one : ∀ r, recordAccepted t r = recordAccepted s r := fun r => by
    simp only [recordAccepted, knownTonePrint, knownToneEffect, h1, h2, h3]
  rw [Bool.eq_iff_iff, recordsAccepted_iff, recordsAccepted_iff]
  simp only [one]

/-! ## LOAD of an accepted sequence -/

/-- LOAD does not fault while every record from `POS` on is accepted (R114). -/
theorem load_ok_of_accepted {s : State} (hp : s.pos.toNat ≤ s.seqCount.toNat)
    (h : ∀ i, s.pos.toNat ≤ i → i < s.seqCount.toNat →
      recordAccepted s (s.seqBase + BitVec.ofNat 32 (64 * i)) = true) : ∃ t, load s = .ok t := by
  revert hp h
  refine load_induct (P := fun s r => s.pos.toNat ≤ s.seqCount.toNat →
    (∀ i, s.pos.toNat ≤ i → i < s.seqCount.toNat →
      recordAccepted s (s.seqBase + BitVec.ofNat 32 (64 * i)) = true) → ∃ t, r = .ok t) ?_ ?_ ?_ ?_ s
  · rintro s - - -; exact ⟨_, rfl⟩
  · intro s hne hu hle h
    have := h s.pos.toNat le_rfl (by bv_omega)
    rw [recordAccepted_eq, ← recordAtPos_eq, hu] at this
    cases this
  · rintro s - - - - -; exact ⟨_, rfl⟩
  · intro s hne _ _ ih hle h
    have hp : (skipped s).pos.toNat = s.pos.toNat + 1 := by
      simp only [skipped, advancePos_pos, latched_pos]
      bv_omega
    refine ih ?_ fun i hi hlt => h i (by omega) hlt
    rw [hp]
    simp only [skipped, advancePos_seqCount, latched_seqCount]
    bv_omega

/-- Where LOAD ends when every record from `POS` on is accepted: `n` is the first position whose record has samples,
or `SEQ_COUNT` if none has (R114, R116). -/
theorem load_accepted {s : State} (hp : s.pos.toNat ≤ s.seqCount.toNat)
    (h : ∀ i, s.pos.toNat ≤ i → i < s.seqCount.toNat → recordAccepted s (s.seqBase + BitVec.ofNat 32 (64 * i)) = true) :
    let record := fun i : ℕ => s.mem.readRecord (s.seqBase + BitVec.ofNat 32 (64 * i))
    let samples := fun i : ℕ => samplesRequired (record i).duration s.sampleRate
    ∃ n, s.pos.toNat ≤ n ∧ n ≤ s.seqCount.toNat ∧ (∀ i, s.pos.toNat ≤ i → i < n → samples i = 0#64) ∧
      (n < s.seqCount.toNat → samples n ≠ 0#64 ∧ load s = .ok { latched (record n) s with pos := BitVec.ofNat 18 n }) ∧
      (n = s.seqCount.toNat → (s.pos = s.seqCount ∧ load s = .ok (endSequence s)) ∨
         (s.pos ≠ s.seqCount ∧ load s = .ok (endSequence { latched (record (n - 1)) s with pos := BitVec.ofNat 18 n }))) := by
  revert hp h
  refine load_induct (P := fun s r => s.pos.toNat ≤ s.seqCount.toNat →
    (∀ i, s.pos.toNat ≤ i → i < s.seqCount.toNat → recordAccepted s (s.seqBase + BitVec.ofNat 32 (64 * i)) = true) →
    let record := fun i : ℕ => s.mem.readRecord (s.seqBase + BitVec.ofNat 32 (64 * i))
    let samples := fun i : ℕ => samplesRequired (record i).duration s.sampleRate
    ∃ n, s.pos.toNat ≤ n ∧ n ≤ s.seqCount.toNat ∧ (∀ i, s.pos.toNat ≤ i → i < n → samples i = 0#64) ∧
      (n < s.seqCount.toNat → samples n ≠ 0#64 ∧ r = .ok { latched (record n) s with pos := BitVec.ofNat 18 n }) ∧
      (n = s.seqCount.toNat → (s.pos = s.seqCount ∧ r = .ok (endSequence s)) ∨
         (s.pos ≠ s.seqCount ∧ r = .ok (endSequence { latched (record (n - 1)) s with pos := BitVec.ofNat 18 n })))) ?_ ?_ ?_ ?_ s
  · intro s he hp h
    exact ⟨s.pos.toNat, le_rfl, hp, fun i h1 h2 => by omega, fun h => by rw [he] at h; omega, fun _ => .inl ⟨he, rfl⟩⟩
  · intro s hne hu hp h
    have := h s.pos.toNat le_rfl (by bv_omega)
    rw [recordAccepted_eq, ← recordAtPos_eq, hu] at this; cases this
  · intro s hne hu h0 hp h record samples
    have e : record s.pos.toNat = recordAtPos s := (recordAtPos_eq s).symm
    refine ⟨s.pos.toNat, le_rfl, hp, fun i h1 h2 => by omega, fun _ => ⟨?_, ?_⟩, fun h => absurd h (by bv_omega)⟩
    · show samplesRequired (record _).duration _ ≠ _
      rw [e]; exact h0
    · rw [e]; simp [latched]
  · intro s hne hu h0 ih hp h record samples
    have e : record s.pos.toNat = recordAtPos s := (recordAtPos_eq s).symm
    have hp1 : (skipped s).pos.toNat = s.pos.toNat + 1 := by simp only [skipped, advancePos_pos, latched_pos]; bv_omega
    have hlt : s.pos.toNat < s.seqCount.toNat := by bv_omega
    obtain ⟨n, h1, h2, h3, h4, h5⟩ := ih (by rw [hp1]; exact hlt) (fun i hi hlt => h i (by omega) hlt)
    rw [hp1] at h1 h3
    have e0 : samples s.pos.toNat = 0#64 := by show samplesRequired (record _).duration _ = _; rw [e]; exact h0
    refine ⟨n, by omega, h2, fun i hi hin => ?_, fun hn => ?_, fun hn => .inr ⟨hne, ?_⟩⟩
    · by_cases hc : i = s.pos.toNat
      · rw [hc]; exact e0
      · exact h3 i (by omega) hin
    · obtain ⟨g1, g2⟩ := h4 hn
      exact ⟨g1, g2⟩
    · rcases h5 hn with ⟨g1, g2⟩ | ⟨g1, g2⟩
      · rw [g2]
        have : n - 1 = s.pos.toNat := by
          have := congrArg BitVec.toNat g1
          rw [hp1] at this; change _ = s.seqCount.toNat at this; omega
        rw [this, e]
        congr 1
        unfold endSequence skipped advancePos
        have : BitVec.ofNat 18 n = s.pos + 1#18 := by
          have := congrArg BitVec.toNat g1
          rw [hp1] at this; change _ = s.seqCount.toNat at this
          bv_omega
        rw [this]; rfl
      · rw [g2]; rfl

end Sys2Proof.Machine
end

