-- ==== Sys2Proof/Laws/Tick.lean ====
section
/-! SUPPORT. What MODULATE and a TICK can do, said once (R144, R150 to R156). -/

namespace Sys2Proof.Machine

open Sys2Proof

/-- One slot of MODULATE as a function on the pair (`FREQ`, `VOL`) (R144). -/
def fxResult (U : Units) (b : FxBinding) (step steps : Word32) (x : FxResult) : FxResult :=
  if b.sel = 0#32 then x else U.fx b.sel x.freq x.vol b.p0 b.p1 step steps

/-- The result of MODULATE on the pair (`FREQ`, `VOL`) (R144). -/
def modulated (U : Units) (s : State) : FxResult :=
  fxResult U s.e.fx2 s.stepIndex s.e.steps
    (fxResult U s.e.fx1 s.stepIndex s.e.steps (fxResult U s.e.fx0 s.stepIndex s.e.steps ⟨s.freq, s.vol⟩))

theorem applyFx_eq (U : Units) (b : FxBinding) (s : State) :
    applyFx U b s = { s with
      freq := (fxResult U b s.stepIndex s.e.steps ⟨s.freq, s.vol⟩).freq
      vol := (fxResult U b s.stepIndex s.e.steps ⟨s.freq, s.vol⟩).vol } := by
  unfold applyFx fxResult
  split <;> rfl

/-- MODULATE replaces `FREQ` and `VOL` and nothing else (R144). -/
theorem modulate_eq (U : Units) (s : State) :
    modulate U s = { s with freq := (modulated U s).freq, vol := (modulated U s).vol } := by
  simp only [modulate, applyFx_eq, modulated]

/-- Step scheduling replaces `STEP`, `FREQ` and `VOL` and nothing else (R152). -/
theorem tickSchedule_eq (U : Units) (s : State) :
    tickSchedule U s = { s with
      stepIndex := (tickSchedule U s).stepIndex
      freq := (tickSchedule U s).freq
      vol := (tickSchedule U s).vol } := by
  unfold tickSchedule
  split
  · rw [modulate_eq]; rfl
  · split
    · rw [modulate_eq]
    · rfl

/-- `STEP` after part 1 of a TICK (R152). -/
theorem tickSchedule_stepIndex (U : Units) (s : State) :
    (tickSchedule U s).stepIndex = if atStepBoundary s then s.stepIndex + 1#32 else s.stepIndex := by
  unfold tickSchedule
  split
  · simp
  · split <;> simp

/-- The state after a TICK's sample is emitted and counted, before completion is looked at (R152 to R156). -/
def emitted (U : Units) (s : State) : State := countSample (tickPhase (tickSample U (tickSchedule U s)))

/-- A TICK in the middle of an effect (R156). -/
theorem tick_within {U : Units} {s : State} (h : s.sw + 1#64 ≠ s.sn) : tick U s = .ok (emitted U s) := by
  simp [tick, tickCount, effectComplete, emitted, h]

/-- A TICK that reaches `SN` runs NEXT (R156). -/
theorem tick_completes {U : Units} {s : State} (h : s.sw + 1#64 = s.sn) :
    tick U s = load (advancePos (emitted U s)) := by
  simp [tick, tickCount, effectComplete, emitted, nextEffect, h]

/-- What a TICK writes before NEXT: `STEP`, `FREQ`, `VOL`, `PHASE`, `SW`, `PULL_COUNT`, and one sample (R151). -/
theorem emitted_eq (U : Units) (s : State) :
    emitted U s = { s with
      stepIndex := (tickSchedule U s).stepIndex
      freq := (tickSchedule U s).freq
      vol := (tickSchedule U s).vol
      phase := s.phase + ftw (tickSchedule U s).freq s.sampleRate
      sw := s.sw + 1#64
      pullCount := s.pullCount + 1#31
      out := s.out ++ [.sample (sampleWord U (tickSchedule U s))] } := by
  unfold emitted
  rw [tickSchedule_eq]
  rfl

/-- Everything a TICK can do when it does not fault: the effect goes on, or LOAD makes the next one active or ends the
sequence (R150, R156). -/
theorem tick_cases {U : Units} {s t : State} (h : tick U s = .ok t) :
    (s.sw + 1#64 ≠ s.sn ∧ t = emitted U s) ∨
    (s.sw + 1#64 = s.sn ∧ load (advancePos (emitted U s)) = .ok t) := by
  by_cases hc : s.sw + 1#64 = s.sn
  · exact .inr ⟨hc, by rw [← tick_completes hc, h]⟩
  · rw [tick_within hc] at h
    cases h
    exact .inl ⟨hc, rfl⟩

/-- One more tick of a row that has not run out is a tick at its end (R185). -/
theorem pullTicks_succ {U : Units} {m : Nat} {s t : State} (h : pullTicks U m s = .ok t) (ha : t.active = true) :
    pullTicks U (m + 1) s = tick U t := by
  have one : ∀ t : State, t.active = true → pullTicks U 1 t = tick U t := fun t ha => by
    simp only [pullTicks, ha, if_true]
    cases tick U t <;> rfl
  induction m generalizing s with
  | zero => cases h; exact one _ ha
  | succ m ih =>
    rw [pullTicks] at h ⊢
    split at h
    · next h1 =>
      rw [if_pos h1]
      split at h
      · exact ih h
      · cases h
    · next h1 => cases h; exact absurd ha h1

end Sys2Proof.Machine
end

