-- ==== Sys2Proof/Laws/Step.lean ====
section
/-! SUPPORT. What a meaning and a step can do, said once (R209). -/

namespace Sys2Proof.Machine

open Sys2Proof

/-! ## Ends of a step -/

@[simp] theorem finish_next {r : Except Fault State} {t : State} : finish r = .next t ↔ r = .ok t := by
  cases r <;> simp [finish]

@[simp] theorem finish_fault {r : Except Fault State} {f : Fault} : finish r = .fault f ↔ r = .error f := by
  cases r <;> simp [finish]

@[simp] theorem finish_refused {r : Except Fault State} {x : Refusal} : finish r = .refused x ↔ False := by
  cases r <;> simp [finish]

theorem whenControlFree_next {s t u : State} :
    whenControlFree s t = .next u ↔ s.ctrlHold = none ∧ t = u := by
  unfold whenControlFree
  split <;> simp_all

theorem whenStreamFree_next {s t u : State} : whenStreamFree s t = .next u ↔ s.gate = .free ∧ t = u := by
  unfold whenStreamFree
  split <;> simp_all

/-! ## PLAY -/

/-- The four next states PLAY can end in (R110 to R112, R203, R204). -/
theorem execPlay_cases {b : Word32} {l : BitVec 24} {s t : State} (h : execPlay b l s = .next t) :
    (s.ctrlHold = none ∧ playValid b l s = false ∧ t = raiseInvalidParameter s) ∨
    (s.ctrlHold = none ∧ playValid b l s = true ∧ s.gate = .render ∧ t = playHold b l s) ∨
    ((s.ctrlHold = none ∧ playValid b l s = true ∨ s.ctrlHold = some ⟨b, l⟩) ∧ s.gate = .free ∧
      ∃ u, load (installSequence b l s) = .ok u ∧ t = respond .control .ok 0#32 u) := by
  have install : ∀ {t}, playInstall b l s = .ok t →
      ∃ u, load (installSequence b l s) = .ok u ∧ t = respond .control .ok 0#32 u := by
    intro t ht
    unfold playInstall at ht
    split at ht
    · cases ht
    · next u hu => cases ht; exact ⟨u, hu, rfl⟩
  unfold execPlay at h
  cases hh : s.ctrlHold with
  | none =>
    simp only [hh] at h
    cases hv : playValid b l s with
    | false => simp [hv] at h; exact .inl ⟨rfl, rfl, h.symm⟩
    | true =>
      cases hg : s.gate with
      | free => simp [hv, hg] at h; exact .inr (.inr ⟨.inl ⟨rfl, rfl⟩, rfl, install h⟩)
      | render => simp [hv, hg] at h; exact .inr (.inl ⟨rfl, rfl, rfl, h.symm⟩)
  | some x =>
    simp only [hh] at h
    split at h
    · next hx => exact .inr (.inr ⟨.inr (by rw [hx.1]), hx.2, install (by simpa using h)⟩)
    · cases h

/-! ## PULL -/

/-- The four next states PULL can end in (R181 to R184). -/
theorem execPull_cases {s t : State} (h : execPull s = .next t) :
    (s.gate = .free ∧ s.active = false ∧ t = respond .stream .ok 0#32 s) ∨
    (s.gate = .free ∧ s.active = true ∧ s.ctrlHold = none ∧ t = pullBegin s) ∨
    (s.gate = .render ∧ pullHasWork s = true ∧ tick Config.units s = .ok t) ∨
    (s.gate = .render ∧ pullHasWork s = false ∧ t = pullEnd s) := by
  unfold execPull pullStep at h
  cases hg : s.gate with
  | free =>
    cases ha : s.active with
    | false => simp [hg, ha] at h; exact .inl ⟨rfl, rfl, h.symm⟩
    | true =>
      cases hh : s.ctrlHold with
      | none => simp [hg, ha, hh] at h; exact .inr (.inl ⟨rfl, rfl, rfl, h.symm⟩)
      | some x => simp [hg, ha, hh] at h
  | render =>
    cases hw : pullHasWork s with
    | true => simp [hg, hw] at h; exact .inr (.inr (.inl ⟨rfl, rfl, h⟩))
    | false => simp [hg, hw] at h; exact .inr (.inr (.inr ⟨rfl, rfl, h.symm⟩))

theorem pullHasWork_iff {s : State} :
    pullHasWork s = true ↔ s.active = true ∧ s.pullCount.toNat < s.pullLimit.toNat := by
  simp [pullHasWork]

/-! ## EFFECT -/

theorem execEffect_next {r : Effect} {s t : State} :
    execEffect r s = .next t ↔ s.active = true ∧ s.pos ≠ s.seqCount ∧ runRecord r s = .ok t := by
  unfold execEffect
  by_cases h : (s.active && s.pos != s.seqCount) = true
  · simp only [h, if_true, finish_next]
    simp only [Bool.and_eq_true, bne_iff_ne] at h
    simp [h.1, h.2]
  · simp only [h]
    simp only [Bool.and_eq_true, bne_iff_ne] at h
    simp
    tauto

/-- The record at `POS` run as an instruction is LOAD (R114). -/
theorem execEffect_recordAtPos {s : State} (ha : s.active = true) (hp : s.pos ≠ s.seqCount) :
    execEffect (recordAtPos s) s = finish (load s) := by
  have hp' : (s.pos != s.seqCount) = true := by simpa using hp
  rw [execEffect, ha, hp', load_runs_record hp]
  simp

/-! ## The commands without a gate -/

/-- Everything a command other than PLAY, PULL and EFFECT does when it answers next: one response on a port where it
is legal, and at most configuration registers, `SINK` and `CONNECTED` written; a failure writes none (R205, R242). -/
theorem exec_ungated_cases {i : Instr} {s t : State} (hp : ∀ b l, i ≠ .play b l) (hq : i ≠ .pull)
    (he : ∀ r, i ≠ .effect r) (h : exec i s = .next t) :
    ∃ p st d, p ∈ i.ports ∧ (st ≠ Status.ok → d = 0#32 ∧ t = respond p st d s) ∧
      t = respond p st d { s with
        sampleRate := t.sampleRate, sampleRange := t.sampleRange, bufferSize := t.bufferSize,
        orMask := t.orMask, sink := t.sink, connected := t.connected } := by
  have inv : ∀ s, raiseInvalidParameter s = respond .control .invalidParameter 0#32 s := fun _ => rfl
  cases i with
  | play b l => exact absurd rfl (hp b l)
  | pull => exact absurd rfl hq
  | effect r => exact absurd rfl (he r)
  | getFormat p =>
    cases p with
    | control =>
      simp only [exec, execGetFormat, whenControlFree_next] at h
      obtain ⟨-, rfl⟩ := h
      exact ⟨.control, .ok, _, by simp [Instr.ports], fun h => absurd rfl h, rfl⟩
    | stream =>
      simp only [exec, execGetFormat, whenStreamFree_next] at h
      obtain ⟨-, rfl⟩ := h
      exact ⟨.stream, .ok, _, by simp [Instr.ports], fun h => absurd rfl h, rfl⟩
  | _ =>
    simp only [exec, execSetSampleRate, execGetSampleRate, execSetSampleRange, execGetSampleRange,
      execSetBufferSize, execSetOrMask, execConnect, whenControlFree_next, inv] at h
    obtain ⟨-, rfl⟩ := h
    first
      | exact ⟨.control, .ok, _, by simp [Instr.ports], fun h => absurd rfl h, rfl⟩
      | (split
         · exact ⟨.control, .ok, _, by simp [Instr.ports], fun h => absurd rfl h, rfl⟩
         · exact ⟨.control, .invalidParameter, _, by simp [Instr.ports], fun _ => ⟨rfl, rfl⟩, rfl⟩)

/-! ## The step -/

/-- What the block's own step or an accepted word runs, and on which state: the state itself, or the state without
the input taken. -/
def Took (s u : State) : Prop := u = s ∨ ∃ x rest, s.inputs = x :: rest ∧ u = { s with inputs := rest }

/-- Every way a step can end, a stop included: nothing to do, a host write, a reset, an illegal word answered, or one
instruction run on the state without the input taken (R209). -/
theorem step_eq_cases (s : State) :
    (∃ u, Took s u ∧ step s = .next u) ∨
    (∃ a bytes rest, s.inputs = .write a bytes :: rest ∧
      step s = .next { s with mem := s.mem.writeBytes a bytes, inputs := rest }) ∨
    (∃ rest, s.inputs = .reset :: rest ∧ step s = .next (applyReset { s with inputs := rest })) ∨
    (∃ p u, Took s u ∧ step s = .next (raiseIllegalCommand p u)) ∨
    (∃ u, Took s u ∧ u.gate = .render ∧ step s = exec .pull u) ∨
    (∃ u h, Took s u ∧ u.gate = .free ∧ u.ctrlHold = some h ∧ step s = exec (.play h.base h.len) u) ∨
    (∃ u p w i, Took s u ∧ portAccepts u p w = true ∧ decodeCommand p w = .ok i ∧ step s = exec i u) := by
  have own : ∀ u, Took s u →
      (∃ v, Took s v ∧ blockStep u = .next v) ∨
      (∃ v, Took s v ∧ v.gate = .render ∧ blockStep u = exec .pull v) ∨
      (∃ v h, Took s v ∧ v.gate = .free ∧ v.ctrlHold = some h ∧ blockStep u = exec (.play h.base h.len) v) := by
    intro u hu
    cases hg : u.gate with
    | render => exact .inr (.inl ⟨u, hu, hg, by simp [blockStep, hg]⟩)
    | free =>
      cases hh : u.ctrlHold with
      | none => exact .inl ⟨u, hu, by simp [blockStep, hg, hh]⟩
      | some h => exact .inr (.inr ⟨u, h, hu, hg, hh, by simp [blockStep, hg, hh]⟩)
  have self : Took s s := .inl rfl
  unfold step nextStep
  cases hi : s.inputs with
  | nil =>
    rcases own s self with h | h | h
    · exact .inl h
    · exact .inr (.inr (.inr (.inr (.inl h))))
    · exact .inr (.inr (.inr (.inr (.inr (.inl h)))))
  | cons x rest =>
    have took : Took s { s with inputs := rest } := .inr ⟨x, rest, hi, rfl⟩
    cases x with
    | run =>
      rcases own _ took with h | h | h
      · exact .inl h
      · exact .inr (.inr (.inr (.inr (.inl h))))
      · exact .inr (.inr (.inr (.inr (.inr (.inl h)))))
    | write a bytes => exact .inr (.inl ⟨a, bytes, rest, rfl, rfl⟩)
    | reset => exact .inr (.inr (.inl ⟨rest, rfl, rfl⟩))
    | command p w =>
      by_cases hp : portAccepts s p w = true
      · simp only [hp, if_true, issueWord]
        cases hd : decodeCommand p w with
        | ok i => exact .inr (.inr (.inr (.inr (.inr (.inr ⟨_, p, w, i, took, hp, hd, rfl⟩)))))
        | error c => exact .inr (.inr (.inr (.inl ⟨p, _, took, rfl⟩)))
      · simp only [hp]
        rcases own s self with h | h | h
        · exact .inl h
        · exact .inr (.inr (.inr (.inr (.inl h))))
        · exact .inr (.inr (.inr (.inr (.inr (.inl h)))))

/-- A decoded command is no record. -/
theorem decodeCommand_ne_effect {p : Port} {w : Word64} {r : Effect} : decodeCommand p w ≠ .ok (.effect r) := by
  intro h
  have := (decodeCommand_legal h).1
  simp [Instr.ports] at this

/-! ## Runs -/

theorem run_next {s t : State} (k : Nat) (h : step s = .next t) :
    Host.Core.run core (k + 1) s = Host.Core.run core k t := by
  have : core.step s = .next t := h
  simp only [Host.Core.run, this]

theorem run_fault {s : State} {f : Fault} (k : Nat) (h : step s = .fault f) :
    Host.Core.run core (k + 1) s = .fault f := by
  have : core.step s = .fault f := h
  simp only [Host.Core.run, this]

end Sys2Proof.Machine
end

