-- ==== Sys2Proof/Tests/Slice0.lean ====
section
/-! SUPPORT. Tests: expected values are those of `95_test_vectors.md`, or words written out from `30_encoding.md`; and
for every obligation with hypotheses a state and operands that meet them. -/

namespace Sys2Proof.Tests

open Sys2Proof Sys2Proof.Machine

/-! ## Records and states of the vectors -/

/-- Record A of program P2: `.effect freq=125.0, vol=1.0, dur=6, tp=1:0, fx0=2:0:0, fx1=3:0:0, steps=3`. -/
def recordA : Record :=
  #v[0x42FA0000, 0x3F800000, 6, 1, 0, 2, 0, 0, 3, 0, 0, 0, 0, 0, 3, 0]

/-- Record B of program P2: `.tone 2:512, 250.0, 1.0, 5`. -/
def recordB : Record :=
  #v[0x437A0000, 0x3F800000, 5, 2, 0x200, 0, 0, 0, 0, 0, 0, 0, 0, 0, 1, 0]

/-- `.null 1` of program P3. -/
def recordNull : Record :=
  #v[0, 0, 0, 1, 0, 0, 0, 0, 0, 0, 0, 0, 0, 0, 1, 0]

/-- The second record of sequence Z of program P3. -/
def recordZ : Record :=
  #v[0x43DC0000, 0x3F800000, 0, 2, 0, 0, 0, 0, 0, 0, 0, 0, 0, 0, 5, 0]

/-- A bad record of program P3: `steps` = 0. -/
def recordBad : Record :=
  #v[0x42C80000, 0x3F800000, 5, 1, 0, 0, 0, 0, 0, 0, 0, 0, 0, 0, 0, 0]

def effectA : Effect := decodeRecord recordA

def effectB : Effect := decodeRecord recordB

/-- Program P2's sequence at 0x1000. -/
def memoryP2 : Memory := Memory.writeBytes [] 0x1000#32 (recordBytes recordA ++ recordBytes recordB)

/-- Sequence Z of program P3 at 0x5000. -/
def memoryZ : Memory := Memory.writeBytes [] 0x5000#32 (recordBytes recordNull ++ recordBytes recordZ)

/-- Program P2 after its step 2. -/
def configured : State := { State.reset with sampleRate := 1000, bufferSize := 8, mem := memoryP2 }

/-- Program P2 after its step 3 (PLAY). -/
def playing : State :=
  { configured with
    active := true, seqBase := 0x1000, seqCount := 2, pos := 0, e := effectA
    freq := 0x42FA0000, vol := 0x3F800000, sn := 6, sps := 2 }

/-- Program P2 in its first burst, before tick 0. -/
def rendering : State := { playing with gate := .render, pullLimit := 8 }

/-- Program P2 before tick 5, the last of record A. -/
def tickFive : State :=
  { rendering with
    stepIndex := 2, freq := 0x447A0000, vol := 0x3E000000, phase := 0x80000000, sw := 5, pullCount := 5 }

/-- Program P2 before tick 10, the last of record B. -/
def tickTen : State :=
  { rendering with
    pos := 1, e := effectB, freq := 0x437A0000, vol := 0x3F800000, phase := 0, sw := 4, sn := 5, sps := 5
    pullCount := 2 }

/-- Program P2 with record B active and nothing emitted of it. -/
def recordBActive : State := { tickTen with sw := 0, pullCount := 6 }

/-- The fixture set `REF0`. -/
def ref0 : Units where
  tp sel param idx :=
    if sel = 1 then idx.setWidth 16
    else if sel = 2 then (if idx.toNat < param.toNat then 1023 else 0)
    else param.extractLsb' 0 16
  fx sel freq vol p0 p1 step _ :=
    if sel = 1 then ⟨p0, p1⟩
    else if sel = 2 then ⟨if 1 ≤ f32Exp freq ∧ f32Exp freq ≤ 253 then freq + 0x00800000 else freq, vol⟩
    else if sel = 3 then ⟨freq, if 2 ≤ f32Exp vol ∧ f32Exp vol ≤ 254 then vol - 0x00800000 else vol⟩
    else ⟨if step.toNat % 2 = 0 then p0 else p1, vol⟩

/-- What a step that goes on shows of its next state. -/
def shown {α : Type} (f : State → α) : Host.Outcome State Fault Refusal → Option α
  | .next s => some (f s)
  | _ => none

/-- The fault a step ends in. -/
def stopped : Host.Outcome State Fault Refusal → Option Fault
  | .fault f => some f
  | _ => none

/-! ## WellFormed -/

theorem test_wellFormed_refuses_zero_steps : (Instr.effect (decodeRecord recordBad)).wellFormed = false := by decide

theorem test_wellFormed_accepts_effect : (Instr.effect effectA).wellFormed = true := by decide

/-! ## Decoding (section 3.1) -/

theorem test_decode_play : decodeCommand .control 0x01FFFFC000000000 = .ok (.play 0 0xFFFFC0) := by decide

theorem test_decode_setSampleRate : decodeCommand .control 0x020000000000BB80 = .ok (.setSampleRate 48000) := by decide

theorem test_decode_getSampleRate : decodeCommand .control 0x0300000000000000 = .ok .getSampleRate := by decide

theorem test_decode_setSampleRange : decodeCommand .control 0x04000000000000FF = .ok (.setSampleRange 255) := by decide

theorem test_decode_getSampleRange : decodeCommand .control 0x0500000000000000 = .ok .getSampleRange := by decide

theorem test_decode_setBufferSize : decodeCommand .control 0x0600000000000004 = .ok (.setBufferSize 4) := by decide

theorem test_decode_setOrMask : decodeCommand .control 0x0700000000008000 = .ok (.setOrMask 0x8000) := by decide

theorem test_decode_connect : decodeCommand .control 0x0800000000001234 = .ok (.connect 0x1234) := by decide

theorem test_decode_getFormat : decodeCommand .control 0x0900000000000000 = .ok (.getFormat .control) ∧
    decodeCommand .stream 0x0900000000000000 = .ok (.getFormat .stream) := by decide

theorem test_decode_pull : decodeCommand .stream 0x0A00000000000000 = .ok .pull := by decide

/-- Record A as the opcode table numbers it: word `i` at bits `32*i + 31 : 32*i`. -/
theorem test_decode_effect : decodeTableWord 512
    0x30000000000000000000000000000000000000000000000030000000000000000000000020000000000000001000000063f80000042fa0000 =
      some (.effect ⟨0x42FA0000, 0x3F800000, 6, 1, 0, ⟨2, 0, 0⟩, ⟨3, 0, 0⟩, ⟨0, 0, 0⟩, 3⟩) := by decide

theorem test_decode_refuses : decodeCommand .control 0 = .error .reservedOpcode ∧
    decodeCommand .stream 0x0B00000000000000 = .error .reservedOpcode ∧
    decodeCommand .control 0x0300000000000001 = .error .nonzeroField ∧
    decodeCommand .control 0x0200000100000001 = .error .nonzeroField ∧
    decodeCommand .stream 0x0A00000000000001 = .error .nonzeroField ∧
    decodeCommand .control 0x0A00000000000000 = .error .wrongPort ∧
    decodeCommand .stream 0x0100004020000000 = .error .wrongPort := by decide

/-! ## Memory (R62: little-endian) -/

/-- The record of P1 at 0x20000000 begins with the bytes 00 00 DC 43. -/
theorem test_record_bytes : (recordBytes recordZ).take 4 = [0x00, 0x00, 0xDC, 0x43] := by decide

theorem test_memory_wf : memoryP2.wf = true ∧ memoryP2.readWord 0x1040 = 0x437A0000 := by decide

/-! ## Arithmetic (sections 3.2 to 3.5) -/

theorem test_classify : classify 0x7F800000 = .posInf ∧ classify 0xFF800000 = .negInf ∧
    classify 0x7F800001 = .nan ∧ classify 0x80000000 = .finite true 0 ∧
    classify 0x007FFFFF = .finite false (2 ^ 23 - 1) ∧ classify 0x43DC0000 = .finite false (440 * 2 ^ 149) := by
  decide

theorem test_ftw_wraps : ftw 0x4E6E6B28 44100 = 0xBCA98173 ∧ ftw 0x7F7FFFFF 44100 = 0x8AF8AF8A ∧
    ftw 0x43DC0000 44100 = 0x028DDFB9 ∧ ftw 0x007FFFFF 44100 = 0 ∧ ftw 0xC3DC0000 44100 = 0 := by decide

theorem test_scale : scale 3 0x3FC00000 1023 = 4 ∧ scale 65535 0x3F800000 1023 = 1023 ∧
    scale 1023 0x3F7FFFFF 1023 = 1022 ∧ scale 512 0x3F000000 65535 = 16399 ∧ scale 5 0x7F800000 1023 = 1023 ∧
    scale 0 0x7F800000 1023 = 0 ∧ scale 700 0xBF800000 1023 = 0 := by decide

theorem test_samples : samplesRequired 1 1500 = 2 ∧ samplesRequired 1 499 = 0 ∧
    samplesRequired 0xFFFFFFFF 0x7FFFFFFF = 9223372030412325 ∧ samplesPerStep 4410 4 = 1102 ∧
    samplesPerStep 2 3 = 0 := by decide

/-! ## PLAY and EFFECT (programs P2, P3; section 3.7) -/

set_option maxRecDepth 8000 in
theorem test_play_installs : shown (fun t => (t.pos, t.sn, t.sps, t.freq, t.out))
    (exec (.play 0x1000 128) configured) = some (0, 6, 2, 0x42FA0000, [.response .control 0]) := by decide

set_option maxRecDepth 8000 in
/-- P3 step 16: both records have no samples; the superseded P2 sequence is released first. -/
theorem test_play_skips_and_releases : shown (fun t => (t.active, t.pos, t.freq, t.e.steps, t.out))
    (exec (.play 0x5000 128) { playing with mem := memoryZ }) =
      some (false, 2, 0x43DC0000, 5, [.release 0x1000, .release 0x5000, .response .control 0]) := by decide

theorem test_effect_latches : shown (fun t => (t.e.tpSel, t.freq, t.sn, t.sps, t.stepIndex))
    (exec (.effect effectB) tickFive) = some (2, 0x437A0000, 5, 5, 0) := by decide

theorem test_effect_faults : stopped (exec (.effect (decodeRecord recordBad)) playing) = some .invalidRecord := by
  decide

/-! ## PULL (program P2, `REF0`) -/

/-- Tick 0: MODULATE at the start halves the volume and doubles the frequency before the sample. -/
theorem test_tick_zero : shown (fun t => (t.freq, t.vol, t.phase, t.sw, t.out)) (pullStep ref0 rendering) =
    some (0x437A0000, 0x3F000000, 0x40000000, 1, [.sample 0]) := by decide

set_option maxRecDepth 8000 in
/-- Tick 5: sample 64, then the next record inside the same step. -/
theorem test_tick_five : shown (fun t => (t.pos, t.freq, t.vol, t.sw, t.out))
    (pullStep ref0 tickFive) = some (1, 0x437A0000, 0x3F800000, 0, [.sample 64]) := by decide

/-- Vector T4: the slots are applied in the order 0, 1 (880.0 set, then doubled). -/
theorem test_modulate_order : (modulate ref0 { playing with
    e := { effectA with fx0 := ⟨1, 0x445C0000, 0x3F800000⟩, fx1 := ⟨2, 0, 0⟩ } }).freq = 0x44DC0000 := by decide

theorem test_pull_end : shown (fun t => (t.gate, t.out)) (exec .pull { tickTen with active := false, pullCount := 3 }) =
    some (.free, [.response .stream 3]) := by decide

/-! ## Configuration, CONNECT, GET_FORMAT (section 3.10) -/

theorem test_setSampleRate : shown (fun t => (t.sampleRate, t.out)) (exec (.setSampleRate 0x7FFFFFFF) State.reset) =
    some (2147483647, [.response .control 0]) := by decide

theorem test_setSampleRate_refuses_negative : shown (fun t => (t.sampleRate, t.out))
    (exec (.setSampleRate 0x80000000) State.reset) = some (44100, [.response .control 0x0100000000000000]) := by decide

theorem test_getSampleRate : shown (fun t => t.out) (exec .getSampleRate State.reset) =
    some [.response .control 0x000000000000AC44] := by decide

theorem test_setSampleRange : shown (fun t => t.sampleRange) (exec (.setSampleRange 65535) State.reset) =
    some 65535 := by decide

theorem test_setSampleRange_refuses : shown (fun t => (t.sampleRange, t.out))
    (exec (.setSampleRange 65536) State.reset) = some (1023, [.response .control 0x0100000000000000]) := by decide

theorem test_getSampleRange : shown (fun t => t.out) (exec .getSampleRange State.reset) =
    some [.response .control 1023] := by decide

theorem test_setBufferSize : shown (fun t => t.bufferSize) (exec (.setBufferSize 8) State.reset) = some 8 := by decide

theorem test_setBufferSize_refuses_zero : shown (fun t => (t.bufferSize, t.out))
    (exec (.setBufferSize 0) State.reset) = some (512, [.response .control 0x0100000000000000]) := by decide

theorem test_setOrMask : shown (fun t => t.orMask) (exec (.setOrMask 0x8000) State.reset) = some 0x8000 := by decide

theorem test_setOrMask_refuses : shown (fun t => t.orMask) (exec (.setOrMask 0x10000) { State.reset with orMask := 7 }) =
    some 7 := by decide

theorem test_connect : shown (fun t => (t.sink, t.connected)) (exec (.connect 0x5678) State.reset) =
    some (0x5678, true) := by decide

theorem test_getFormat : shown (fun t => t.out) (exec (.getFormat .stream) State.reset) =
    some [.response .stream 3] := by decide

/-! ## The step -/

/-- The first PULL after reset returns the empty burst (R271). -/
theorem test_first_pull : shown (fun t => (t.gate, t.out)) (step (State.reset.withFetchWord 64 0x0A00000000000000)) =
    some (.free, [.response .stream 0]) := by decide

set_option maxRecDepth 8000 in
/-- Program P5's shape: a PLAY during a burst is held (R203). -/
theorem test_step_holds_play : shown (fun t => (t.ctrlHold, t.out))
    (step { rendering with inputs := [.command .control 0x0100008000001000] }) =
      some (some ⟨0x1000, 128⟩, []) := by decide

set_option maxRecDepth 8000 in
/-- A record of the opcode table is latched by the first step (entry 16). -/
theorem test_step_fetches_record : shown (fun t => t.e.tpParam)
    (step (State.reset.withFetchWord 512
      0x10000000000000000000000000000000000000000000000000000000000000000000000000000004d00000001000000640000000000000000)) = some 77 := by decide

theorem test_step_resets : shown (fun t => (t.active, t.gate, t.sampleRate, t.mem == memoryP2))
    (step { rendering with inputs := [.reset] }) = some (false, .free, 44100, true) := by decide

/-! ## Witnesses: for every obligation with hypotheses, states and operands that meet them together

One theorem per obligation, its name after the obligation's; where a statement has several clauses, each clause has a
witness, at a boundary value of its range where it has one. -/

/-- `rendering` with inputs. -/
def renderingWith (l : List Input) : State := { rendering with inputs := l }

/-- `playing` with a PLAY of the same sequence held. -/
def holding (l : List Input) : State := { playing with ctrlHold := some ⟨0x1000, 128⟩, inputs := l }

theorem playing_inv : playing.Inv where
  mem_wf := by decide
  rate_pos := by decide
  size_pos := by decide
  pos_lt := by decide
  sw_lt := by decide
  step_lt := by decide
  sps_eq := by decide
  latch_usable := by decide
  sn_bound := by decide
  seq_placed := by decide
  idle_done := by decide
  pull_bounds := by decide
  pull_started := by decide
  held_placed := fun _ h => nomatch h

theorem rendering_inv (l : List Input) : (renderingWith l).Inv :=
  { playing_inv with
    pull_bounds := fun _ => by
      show 1 ≤ (8#31).toNat ∧ (0#31).toNat ≤ (8#31).toNat
      decide
    pull_started := fun _ h => nomatch h }

theorem recordB_inv : recordBActive.Inv where
  mem_wf := by decide
  rate_pos := by decide
  size_pos := by decide
  pos_lt := by decide
  sw_lt := by decide
  step_lt := by decide
  sps_eq := by decide
  latch_usable := by decide
  sn_bound := by decide
  seq_placed := by decide
  idle_done := by decide
  pull_bounds := by decide
  pull_started := by decide
  held_placed := fun _ h => nomatch h

set_option maxRecDepth 8000 in
theorem rendering_intact (l : List Input) : (renderingWith l).SequencesIntact where
  active_ok := fun _ => by
    show recordsAccepted playing 2 0x1000 = true
    decide
  latch_current := fun _ => by
    show recordAtPos playing = effectA
    decide
  held_ok := fun _ h => nomatch h

set_option maxRecDepth 8000 in
theorem acceptable : PlayAcceptable playing 0x1000 128 := (playValid_iff _ _ _).1 (by decide)

set_option maxRecDepth 8000 in
theorem acceptable_without_samples : PlayAcceptable { playing with mem := memoryZ } 0x5000 128 :=
  (playValid_iff _ _ _).1 (by decide)

set_option maxRecDepth 8000 in
/-- Length 0, a misaligned base, and a record of zeros (`steps` = 0). -/
theorem not_acceptable : ¬ PlayAcceptable playing 0x1000 0 ∧ ¬ PlayAcceptable playing 0x1002 64 ∧
    ¬ PlayAcceptable playing 0xFFFFFFC0 64 := by
  refine ⟨?_, ?_, ?_⟩ <;> rw [← playValid_iff] <;> decide

theorem witness_CommandWordsHaveOneMeaning :
    decodeCommand .control 0x01FFFFC000000000 = .ok (.play 0 0xFFFFC0) := by decide

/-- Both ends of the reserved opcodes, both kinds of non-zero field, both wrong ports, and two legal words. -/
theorem witness_IllegalWordsAnswerIllegalCommand :
    (0x00FFFFFFFFFFFFFF#64).toNat / 2 ^ 56 = 0 ∧ 0x0B ≤ (0x0B00000000000000#64).toNat / 2 ^ 56 ∧
    0x0B ≤ (0xFF00000000000000#64).toNat / 2 ^ 56 ∧
    ((0x0200000100000001#64).toNat / 2 ^ 56 ≠ 1 ∧ (0x0200000100000001#64).toNat / 2 ^ 32 % 2 ^ 24 ≠ 0) ∧
    ((0x0A00000000000001#64).toNat / 2 ^ 56 = 10 ∧ (0x0A00000000000001#64).toNat % 2 ^ 32 ≠ 0) ∧
    (0x0A00000000000000#64).toNat / 2 ^ 56 = 10 ∧ (0x0800000000001234#64).toNat / 2 ^ 56 < 9 ∧
    (decodeCommand .stream 0x0900000000000000).isOk = true ∧
    (decodeCommand .control 0x0100000000000000).isOk = true := by decide

theorem witness_StoredRecordIsFetched : memoryP2.wf = true := by decide

theorem witness_StepRunsAcceptedWord :
    (∃ s : State, s.inputs = [.command .control 0x0300000000000000] ∧ s.ctrlHold = none ∧
      decodeCommand .control 0x0300000000000000 = .ok .getSampleRate) ∧
    (∃ s : State, s.inputs = [.command .stream 0x0A00000000000000] ∧ s.gate = .free ∧ s.active = true ∧
      s.ctrlHold = none ∧ decodeCommand .stream 0x0A00000000000000 = .ok .pull) :=
  ⟨⟨renderingWith _, rfl, rfl, by decide⟩, ⟨{ playing with inputs := _ }, rfl, rfl, rfl, rfl, by decide⟩⟩

theorem witness_StepAnswersIllegalWord :
    (∃ s : State, s.inputs = [.command .control 0x0A00000000000000] ∧ s.ctrlHold = none ∧
      decodeCommand .control 0x0A00000000000000 = .error .wrongPort) ∧
    (∃ s : State, s.inputs = [.command .stream 0x0B00000000000000] ∧ s.gate = .free ∧
      decodeCommand .stream 0x0B00000000000000 = .error .reservedOpcode) :=
  ⟨⟨renderingWith _, rfl, rfl, by decide⟩, ⟨holding _, rfl, rfl, by decide⟩⟩

theorem witness_StepContinuesPull :
    ((renderingWith []).gate = .render ∧ (renderingWith []).inputs = []) ∧
    ((renderingWith [.run]).gate = .render ∧ (renderingWith [.run]).inputs = [.run]) ∧
    (renderingWith [.command .stream 0]).inputs = [.command .stream 0] ∧
    ({ holding [.command .control 0] with gate := .render } : State).ctrlHold ≠ none := by decide

theorem witness_HeldPlayInstallsFirst :
    (holding [.command .stream 0x0A00000000000000]).ctrlHold = some ⟨0x1000, 128⟩ ∧
    (holding [.command .stream 0x0A00000000000000]).gate = .free ∧
    (holding [.command .stream 0x0A00000000000000]).active = true ∧
    (holding [.command .control 0]).inputs = [.command .control 0] := by decide

theorem witness_QuietBlockStep : (playing.gate = .free ∧ playing.inputs = [] ∧ playing.ctrlHold = none) ∧
    ((holding []).gate = .free ∧ (holding []).inputs = [] ∧ (holding []).ctrlHold = some ⟨0x1000, 128⟩) ∧
    (∃ s : State, s.gate = .free ∧ s.inputs = [.run, .reset] ∧ s.ctrlHold = none) ∧
    ((holding [.run]).gate = .free ∧ (holding [.run]).inputs = [.run] ∧
      (holding [.run]).ctrlHold = some ⟨0x1000, 128⟩) :=
  ⟨by decide, by decide, ⟨{ playing with inputs := _ }, rfl, rfl, rfl⟩, by decide⟩

theorem witness_LoadRunsRecordAtPos : playing.active = true ∧ playing.pos ≠ playing.seqCount := by decide

theorem witness_HostWriteStoresItsBytes : ∃ (s : State) (bytes : List Byte), s.mem.wf = true ∧
    s.inputs = [.write 0xFFFFFFFF bytes] ∧ bytes = [1, 2] ∧ bytes.length ≤ 2 ^ 32 :=
  ⟨renderingWith _, [1, 2], by decide, rfl, rfl, by decide⟩

theorem witness_ResetInputRestoresRegisters : ∃ s : State, s.inputs = [.reset] := ⟨renderingWith _, rfl⟩

theorem witness_SetSampleRateResult : State.reset.ctrlHold = none ∧
    0 < (1 : Word32).toInt ∧ 0 < (0x7FFFFFFF : Word32).toInt ∧
    (0 : Word32).toInt ≤ 0 ∧ (0x80000000 : Word32).toInt ≤ 0 := by decide

theorem witness_GetSampleRateResult : rendering.ctrlHold = none := by decide

theorem witness_SetSampleRangeResult : State.reset.ctrlHold = none ∧ (0xFFFF : Word32).toNat < 2 ^ 16 ∧
    2 ^ 16 ≤ (0x10000 : Word32).toNat := by decide

theorem witness_GetSampleRangeResult : playing.ctrlHold = none := by decide

theorem witness_SetBufferSizeResult : State.reset.ctrlHold = none ∧
    0 < (1 : Word32).toInt ∧ 0 < (0x7FFFFFFF : Word32).toInt ∧
    (0 : Word32).toInt ≤ 0 ∧ (0xFFFFFFFB : Word32).toInt ≤ 0 := by decide

theorem witness_SetOrMaskResult : State.reset.ctrlHold = none ∧ (0xFFFF : Word32).toNat < 2 ^ 16 ∧
    2 ^ 16 ≤ (0x10000 : Word32).toNat := by decide

theorem witness_ConnectResult : rendering.ctrlHold = none := by decide

theorem witness_GetFormatResult : rendering.ctrlHold = none ∧ (holding []).gate = .free := by decide

theorem witness_InvalidPlayAnswersAtOnce : playing.ctrlHold = none ∧ ¬ PlayAcceptable playing 0x1000 0 ∧
    ¬ PlayAcceptable playing 0x1002 64 ∧ ¬ PlayAcceptable playing 0xFFFFFFC0 64 :=
  ⟨rfl, not_acceptable⟩

theorem witness_PlayIsHeldDuringPull : ∃ s : State, s.ctrlHold = none ∧ s.gate = .render ∧
    PlayAcceptable s 0x1000 128 := ⟨rendering, rfl, rfl, acceptable⟩

theorem witness_PlayInstallsSequence :
    (∃ s : State, s.ctrlHold = none ∧ s.gate = .free ∧ PlayAcceptable s 0x1000 128) ∧
    (∃ s : State, s.ctrlHold = some ⟨0x1000, 128⟩ ∧ s.gate = .free ∧ PlayAcceptable s 0x1000 128) ∧
    (∃ s : State, s.ctrlHold = none ∧ s.gate = .free ∧ PlayAcceptable s 0x5000 128) :=
  ⟨⟨playing, rfl, rfl, acceptable⟩, ⟨holding [], rfl, rfl, acceptable⟩,
    ⟨{ playing with mem := memoryZ }, rfl, rfl, acceptable_without_samples⟩⟩

theorem witness_IdlePullAnswersEmptyBurst : State.reset.gate = .free ∧ State.reset.active = false := by decide

theorem witness_PullBeginTakesGate : playing.gate = .free ∧ playing.active = true ∧ playing.ctrlHold = none := by
  decide

theorem witness_PullEndFreesGate :
    (∃ s : State, s.gate = .render ∧ s.pullCount = s.pullLimit ∧ s.active = true) ∧
    (∃ s : State, s.gate = .render ∧ s.pullCount ≠ s.pullLimit ∧ s.active = false) :=
  ⟨⟨{ rendering with pullCount := 8 }, rfl, rfl, rfl⟩, ⟨{ rendering with active := false }, rfl, by decide, rfl⟩⟩

/-- The start of an effect, and a step boundary. -/
theorem witness_TickWithinEffect :
    (rendering.gate = .render ∧ rendering.active = true ∧ rendering.pullCount.toNat < rendering.pullLimit.toNat ∧
      rendering.sw + 1 ≠ rendering.sn) ∧
    (∃ s : State, s.gate = .render ∧ s.active = true ∧ s.pullCount.toNat < s.pullLimit.toNat ∧ s.sw + 1 ≠ s.sn ∧
      atStepBoundary s = true) :=
  ⟨by decide, ⟨{ rendering with sw := 2, pullCount := 7 }, by decide⟩⟩

theorem witness_TickCompletesEffect :
    (tickFive.gate = .render ∧ tickFive.active = true ∧ tickFive.pullCount.toNat < tickFive.pullLimit.toNat ∧
      tickFive.sw + 1 = tickFive.sn ∧ tickFive.pos + 1 ≠ tickFive.seqCount) ∧
    (tickTen.gate = .render ∧ tickTen.active = true ∧ tickTen.pullCount.toNat < tickTen.pullLimit.toNat ∧
      tickTen.sw + 1 = tickTen.sn ∧ tickTen.pos + 1 = tickTen.seqCount) := by decide

/-- A record with samples, and records without samples at the last place and before it. -/
theorem witness_EffectIsLoaded :
    (playing.active = true ∧ playing.pos ≠ playing.seqCount ∧ tickTen.pos ≠ tickTen.seqCount ∧
      effectA.steps ≠ 0 ∧ effectA.tpSel ∈ playing.tpKeys ∧
      ∀ b ∈ [effectA.fx0, effectA.fx1, effectA.fx2], b.sel = 0 ∨ b.sel ∈ playing.fxKeys) ∧
    (effectA.duration.toNat * playing.sampleRate.toNat + 500) / 1000 ≠ 0 ∧
    ((decodeRecord recordZ).steps ≠ 0 ∧ (decodeRecord recordZ).tpSel ∈ playing.tpKeys ∧
      ∀ b ∈ [(decodeRecord recordZ).fx0, (decodeRecord recordZ).fx1, (decodeRecord recordZ).fx2],
        b.sel = 0 ∨ b.sel ∈ playing.fxKeys) ∧
    ((decodeRecord recordZ).duration.toNat * playing.sampleRate.toNat + 500) / 1000 = 0 ∧
    tickTen.pos + 1 = tickTen.seqCount ∧ playing.pos + 1 ≠ playing.seqCount := by decide

/-- `steps` = 0, an unknown tone print, an unknown tone effect in slot 1 (section 3.6, V6.5 to V6.7). -/
theorem witness_UndefinedRecordFaults : playing.active = true ∧ playing.pos ≠ playing.seqCount ∧
    (decodeRecord recordBad).steps = 0 ∧ ({ effectA with tpSel := 9 } : Effect).tpSel ∉ playing.tpKeys ∧
    ∃ b ∈ [effectA.fx0, (⟨7, 0, 0⟩ : FxBinding), effectA.fx2], b.sel ≠ 0 ∧ b.sel ∉ playing.fxKeys := by decide

/-- A NaN, both infinities, the largest subnormal, the smallest and the largest other finite pattern. -/
theorem witness_FvalReadsBinary32 :
    ((0x7F800001#32).toNat / 2 ^ 23 % 2 ^ 8 = 255 ∧ (0x7F800001#32).toNat % 2 ^ 23 ≠ 0) ∧
    ((0x7F800000#32).toNat / 2 ^ 23 % 2 ^ 8 = 255 ∧ (0xFF800000#32).toNat % 2 ^ 23 = 0) ∧
    (0x007FFFFF#32).toNat / 2 ^ 23 % 2 ^ 8 = 0 ∧
    (0x00800000#32).toNat / 2 ^ 23 % 2 ^ 8 = 1 ∧ (0xFF7FFFFF#32).toNat / 2 ^ 23 % 2 ^ 8 = 254 := by decide

theorem fval_pos : 0 < fval 0x437A0000 := by
  rw [fval_of_finite (neg := false) (mag := 250 * 2 ^ 149) (by decide)]
  norm_num

theorem fval_zero : fval 0x80000000 ≤ 0 := by
  rw [fval_of_finite (neg := true) (mag := 0) (by decide)]
  norm_num

theorem witness_TuningWordIsExactFloor : 1 ≤ (1#31).toNat ∧ (0x7F800000#32).toNat / 2 ^ 23 % 2 ^ 8 = 255 ∧
    ((0x80000000#32).toNat / 2 ^ 23 % 2 ^ 8 ≠ 255 ∧ fval 0x80000000 ≤ 0) ∧
    ((0x437A0000#32).toNat / 2 ^ 23 % 2 ^ 8 ≠ 255 ∧ 0 < fval 0x437A0000) :=
  ⟨by decide, by decide, ⟨by decide, fval_zero⟩, ⟨by decide, fval_pos⟩⟩

theorem witness_ScaleIsClippedFloor :
    ((0x7F800001#32).toNat / 2 ^ 23 % 2 ^ 8 = 255 ∧ (0x7F800001#32).toNat % 2 ^ 23 ≠ 0) ∧
    ((0x80000000#32).toNat / 2 ^ 23 % 2 ^ 8 ≠ 255 ∧ fval 0x80000000 ≤ 0) ∧
    ((0x437A0000#32).toNat / 2 ^ 23 % 2 ^ 8 ≠ 255 ∧ 0 < fval 0x437A0000) :=
  ⟨by decide, ⟨by decide, fval_zero⟩, ⟨by decide, fval_pos⟩⟩

theorem witness_SamplesPerStepIsFloor : (1#32).toNat ≠ 0 ∧ (0xFFFFFFFF#32).toNat ≠ 0 ∧
    (441#64).toNat < (0xFFFFFFFF#32).toNat := by decide

theorem witness_PhaseTrailsIdealByLessThanTicks : recordBActive.Inv ∧ recordBActive.active = true ∧
    (recordBActive.e.fx0.sel = 0 ∧ recordBActive.e.fx1.sel = 0 ∧ recordBActive.e.fx2.sel = 0) ∧
    4 < recordBActive.sn.toNat - recordBActive.sw.toNat ∧
    recordBActive.freq.toNat / 2 ^ 23 % 2 ^ 8 ≠ 255 ∧ 0 < fval recordBActive.freq :=
  ⟨recordB_inv, rfl, by decide, by decide, by decide, fval_pos⟩

theorem rendering_ticks : ∃ t, exec .pull rendering = .next t := by
  have hw : pullHasWork rendering = true := by decide
  exact ⟨emitted Config.units rendering, by
    rw [show exec .pull rendering = finish (tick Config.units rendering) by
      simp only [exec, execPull, pullStep, hw]; rfl, finish_next]
    exact tick_within (by decide)⟩

theorem witness_EmittedSampleIsClippedAndMasked : rendering.gate = .render ∧ rendering.active = true ∧
    rendering.pullCount.toNat < rendering.pullLimit.toNat ∧ ∃ t, exec .pull rendering = .next t :=
  ⟨rfl, rfl, by decide, rendering_ticks⟩

theorem witness_CommandsNeverWriteMemory : ∃ t, exec .pull rendering = .next t := rendering_ticks

set_option maxRecDepth 8000 in
theorem witness_PlayFrame : ∃ t, exec (.play 0x1000 128) rendering = .next t :=
  ⟨playHold 0x1000 128 rendering, by
    rw [show exec (.play 0x1000 128) rendering = execPlay 0x1000 128 rendering by rfl, execPlay,
      show rendering.ctrlHold = none by rfl, show playValid 0x1000 128 rendering = true by decide]
    rfl⟩

theorem witness_PullFrame : ∃ t, exec .pull rendering = .next t := rendering_ticks

theorem effect_loads : exec (.effect effectB) tickFive = .next (latched effectB tickFive) := by
  rw [show exec (.effect effectB) tickFive = execEffect effectB tickFive by rfl, execEffect_next]
  exact ⟨rfl, by decide, by rw [runRecord, latch_of_usable (by decide)]; rfl⟩

theorem witness_EffectFrame : ∃ t, exec (.effect effectB) tickFive = .next t := ⟨_, effect_loads⟩

theorem witness_UngatedCommandsKeepRendering : (∀ b l, Instr.setOrMask 1 ≠ .play b l) ∧
    Instr.setOrMask 1 ≠ .pull ∧ (∀ r, Instr.setOrMask 1 ≠ .effect r) ∧
    ∃ t, exec (.setOrMask 1) rendering = .next t :=
  ⟨by simp, by simp, by simp, ⟨_, rfl⟩⟩

theorem witness_NoControlCommandChangesRenderingMidBurst : rendering.gate = .render ∧
    .control ∈ (Instr.setOrMask 1).ports ∧ ∃ t, exec (.setOrMask 1) rendering = .next t :=
  ⟨rfl, by decide, ⟨_, rfl⟩⟩

theorem witness_FailedCommandChangesNothing :
    (∃ (t : State) (new : List Output), exec (.setSampleRate 0) rendering = .next t ∧ t.out = rendering.out ++ new ∧
      ∃ p w, .response p w ∈ new ∧ w.toNat / 2 ^ 56 ≠ 0) ∧
    (∃ (t : State) (new : List Output), issueWord .control 0 rendering = .next t ∧ t.out = rendering.out ++ new ∧
      ∃ p w, .response p w ∈ new ∧ w.toNat / 2 ^ 56 ≠ 0) :=
  ⟨⟨raiseInvalidParameter rendering, [.response .control 0x0100000000000000], rfl, by decide,
    .control, 0x0100000000000000, by simp, by decide⟩,
   ⟨raiseIllegalCommand .control rendering, [.response .control 0x0200000000000000], rfl, by decide,
    .control, 0x0200000000000000, by simp, by decide⟩⟩

theorem witness_ResponsesHaveResponseFormat : ∃ (t : State) (new : List Output) (p : Port) (w : Word64),
    exec (.setSampleRate 0) rendering = .next t ∧ t.out = rendering.out ++ new ∧ .response p w ∈ new :=
  ⟨raiseInvalidParameter rendering, [.response .control 0x0100000000000000], .control, 0x0100000000000000, rfl,
    by decide, by simp⟩

theorem witness_StepKeepsInvariant : playing.Inv ∧ ∃ t, step playing = .next t := ⟨playing_inv, ⟨_, rfl⟩⟩

/-- The host writes beside the sequence, up to its first byte. -/
theorem witness_LawfulStepNeverFaults : (renderingWith [.write 0xFFF [1]]).Inv ∧
    (renderingWith [.write 0xFFF [1]]).SequencesIntact ∧ (renderingWith [.write 0xFFF [1]]).HostLawful := by
  refine ⟨rendering_inv _, rendering_intact _, ?_⟩
  intro a bytes rest h k hk hb
  cases h
  have hk0 : k = 0 := by simpa using hk
  subst hk0
  rcases hb with ⟨-, h1, -⟩ | ⟨x, hx, -⟩
  · exact absurd h1 (by decide)
  · cases hx

theorem witness_StepIndexFollowsSchedule : playing.Inv ∧ playing.OnSchedule ∧ ∃ t, step playing = .next t :=
  ⟨playing_inv, by unfold State.OnSchedule; decide, ⟨_, rfl⟩⟩

theorem witness_ReleasesBalanceInstalls : ∃ t, exec .pull rendering = .next t := rendering_ticks

theorem witness_PosNeverDecreases : (renderingWith []).Inv ∧ (∀ b l, Instr.pull ≠ .play b l) ∧
    ∃ t, exec .pull (renderingWith []) = .next t :=
  ⟨rendering_inv _, by simp, rendering_ticks⟩

theorem witness_BurstComesFromOneSequence : (renderingWith []).gate = .render ∧
    (∀ rest, (renderingWith []).inputs ≠ .reset :: rest) ∧ ∃ t, step (renderingWith []) = .next t :=
  ⟨rfl, by simp [renderingWith], rendering_ticks⟩

theorem witness_PullIsOneFunction : ∃ s : State, s.gate = .free ∧ s.ctrlHold = none ∧
    s.inputs = [.command .stream 0x0A00000000000000] := ⟨{ playing with inputs := _ }, rfl, rfl, rfl⟩

theorem tickTen_inv : tickTen.Inv where
  mem_wf := by decide
  rate_pos := by decide
  size_pos := by decide
  pos_lt := by decide
  sw_lt := by decide
  step_lt := by decide
  sps_eq := by decide
  latch_usable := by decide
  sn_bound := by decide
  seq_placed := by decide
  idle_done := by decide
  pull_bounds := by decide
  pull_started := by decide
  held_placed := fun _ h => nomatch h

/-- Record B's effect with five samples left (four ticks stay inside it), and with one left, whose tick ends the
sequence without a fault. -/
theorem witness_SampleCountLaw :
    (recordBActive.Inv ∧ recordBActive.active = true ∧ 4 < recordBActive.sn.toNat - recordBActive.sw.toNat) ∧
    (tickTen.Inv ∧ tickTen.active = true ∧ tickTen.sn.toNat - tickTen.sw.toNat = 1 ∧
      ∃ t, pullTicks ref0 (tickTen.sn.toNat - tickTen.sw.toNat) tickTen = .ok t) :=
  ⟨⟨recordB_inv, rfl, by decide⟩, tickTen_inv, rfl, by decide, by
    rw [show tickTen.sn.toNat - tickTen.sw.toNat = 0 + 1 by decide,
      pullTicks_succ (m := 0) (t := tickTen) rfl rfl, tick_completes (by decide)]
    exact ⟨_, load_exhausted (by decide)⟩⟩

theorem witness_GateIsFreedWithinLimit : (renderingWith []).Inv ∧ (renderingWith []).SequencesIntact ∧
    (renderingWith []).gate = .render ∧ (renderingWith []).inputs = [] :=
  ⟨rendering_inv _, rendering_intact _, rfl, rfl⟩

end Sys2Proof.Tests
end

/-! PROOFS of the family of `10_state.md`: what PLAY, PULL and a record leave unchanged (R48), that `POS` moves
forward only (R29, R121), and that every step keeps the invariant (R44 to R46). -/

namespace Sys2Proof.Machine

open Sys2Proof

/-! ## Frames: what PLAY, PULL and a record leave unchanged (R48)

Each operation is given the one frame `QueueOnly`, from the state that already holds what the operation itself writes
outside the queue. -/

theorem QueueOnly.refl (s : State) : QueueOnly s s :=
  ⟨⟨rfl, rfl, rfl, rfl, rfl, rfl⟩, ⟨rfl, rfl, rfl⟩, rfl, rfl, rfl, fun _ => rfl, rfl, rfl, rfl⟩

theorem respond_queueOnly (p : Port) (st : Status) (d : Word32) (s : State) : QueueOnly s (respond p st d s) :=
  { QueueOnly.refl s with }

theorem latched_queueOnly (r : Effect) (s : State) : QueueOnly s (latched r s) :=
  { QueueOnly.refl s with }

theorem advancePos_queueOnly (s : State) : QueueOnly s (advancePos s) :=
  { QueueOnly.refl s with }

/-- Before NEXT a TICK writes, outside the queue and the render registers, `PULL_COUNT` alone (R151). -/
theorem emitted_queueOnly (U : Units) (s : State) :
    QueueOnly { s with pullCount := s.pullCount + 1#31 } (emitted U s) := by
  rw [emitted_eq]
  exact { QueueOnly.refl { s with pullCount := s.pullCount + 1#31 } with }

/-- A whole TICK, with the LOAD it may run, writes there `PULL_COUNT` alone (R151). -/
theorem tick_queueOnly {U : Units} {s t : State} (h : tick U s = .ok t) :
    QueueOnly { s with pullCount := s.pullCount + 1#31 } t := by
  rcases tick_cases h with ⟨-, rfl⟩ | ⟨-, hl⟩
  · exact emitted_queueOnly U s
  · exact ((emitted_queueOnly U s).trans (advancePos_queueOnly _)).trans (load_queueOnly hl)

theorem runRecord_queueOnly {r : Effect} {s t : State} (h : runRecord r s = .ok t) : QueueOnly s t := by
  obtain ⟨-, ⟨-, rfl⟩ | ⟨-, hl⟩⟩ := runRecord_cases h
  · exact latched_queueOnly r s
  · exact ((latched_queueOnly r s).trans (advancePos_queueOnly _)).trans (load_queueOnly hl)

/-- Before LOAD the install of a PLAY writes there `CTRL_HOLD`, `SEQ_BASE` and `SEQ_COUNT` alone (R112). -/
theorem installSequence_queueOnly (b : Word32) (l : BitVec 24) (s : State) :
    QueueOnly { s with ctrlHold := none, seqBase := b, seqCount := BitVec.ofNat 18 (recordCount l) }
      (installSequence b l s) := by
  rw [installSequence_eq]
  exact { QueueOnly.refl
    { s with ctrlHold := none, seqBase := b, seqCount := BitVec.ofNat 18 (recordCount l) } with }

/-- PLAY writes outside the queue's moving part at most `CTRL_HOLD`, `SEQ_BASE` and `SEQ_COUNT` (R112, R203, R204). -/
theorem execPlay_frame {b : Word32} {l : BitVec 24} {s t : State} (h : execPlay b l s = .next t) :
    QueueOnly { s with ctrlHold := t.ctrlHold, seqBase := t.seqBase, seqCount := t.seqCount } t := by
  rcases execPlay_cases h with ⟨-, -, rfl⟩ | ⟨-, -, -, rfl⟩ | ⟨-, -, u, hl, rfl⟩
  · exact respond_queueOnly _ _ _ s
  · exact QueueOnly.refl (playHold b l s)
  · have hq := (installSequence_queueOnly b l s).trans
      ((load_queueOnly hl).trans (respond_queueOnly .control .ok 0#32 u))
    exact { hq with base := rfl, count := rfl, hold := rfl }

/-- PULL writes there at most `GATE`, `PULL_LIMIT` and `PULL_COUNT` (R181 to R184). -/
theorem execPull_frame {s t : State} (h : execPull s = .next t) :
    QueueOnly { s with gate := t.gate, pullLimit := t.pullLimit, pullCount := t.pullCount } t := by
  rcases execPull_cases h with ⟨-, -, rfl⟩ | ⟨-, -, -, rfl⟩ | ⟨-, -, ht⟩ | ⟨-, -, rfl⟩
  · exact respond_queueOnly _ _ _ s
  · exact QueueOnly.refl (pullBegin s)
  · exact { tick_queueOnly ht with gate := ⟨rfl, rfl, rfl⟩ }
  · exact { respond_queueOnly .stream .ok (zext32 s.pullCount) s with gate := ⟨rfl, rfl, rfl⟩ }

/-- Settles O42, from the frame of PLAY. -/
theorem playFrame : Obligations.PlayFrame := by
  intro b l s t h
  have hf := execPlay_frame h
  exact ⟨hf.config, hf.gate, hf.env⟩

/-- Settles O43, from the frame of PULL. -/
theorem pullFrame : Obligations.PullFrame := by
  intro s t h
  have hf := execPull_frame h
  exact ⟨hf.config, hf.base, hf.count, hf.hold, hf.env⟩

/-- Settles O44, from the frame of a fetched record. -/
theorem effectFrame : Obligations.EffectFrame := by
  intro r s t h
  obtain ⟨-, -, hr⟩ := execEffect_next.1 h
  have hf := runRecord_queueOnly hr
  exact ⟨hf.config, hf.gate, hf.base, hf.count, hf.hold, hf.env⟩

/-! ## `POS` (R29, R121) -/

/-- Whatever `ACTIVE` is, `POS` stands within the sequence or at its end (R29, R45). -/
theorem State.Inv.pos_le {s : State} (h : s.Inv) : s.pos.toNat ≤ s.seqCount.toNat := by
  cases ha : s.active with
  | true => exact (h.pos_lt ha).le
  | false => rw [(h.idle_done ha).1]

theorem advancePos_pos_toNat {s : State} (h : s.pos.toNat < s.seqCount.toNat) :
    (advancePos s).pos.toNat = s.pos.toNat + 1 := by
  rw [advancePos_pos]
  bv_omega

/-- Going on with the next record moves `POS` forward, not past `SEQ_COUNT` (R113). -/
theorem nextEffect_pos_le {s t : State} (h : nextEffect s = .ok t) (hp : s.pos.toNat < s.seqCount.toNat) :
    s.pos.toNat ≤ t.pos.toNat ∧ t.pos.toNat ≤ t.seqCount.toNat := by
  have hadv := advancePos_pos_toNat hp
  have hl := load_pos_le h (by rw [hadv]; exact hp)
  omega

theorem tick_pos_le {U : Units} {s t : State} (h : tick U s = .ok t) (hp : s.pos.toNat < s.seqCount.toNat) :
    s.pos.toNat ≤ t.pos.toNat ∧ t.pos.toNat ≤ t.seqCount.toNat := by
  have hpos : (emitted U s).pos = s.pos := by rw [emitted_eq]
  have hcount : (emitted U s).seqCount = s.seqCount := by rw [emitted_eq]
  rw [← hpos, ← hcount] at hp
  rw [← hpos]
  rcases tick_cases h with ⟨-, rfl⟩ | ⟨-, hl⟩
  · exact ⟨le_rfl, hp.le⟩
  · exact nextEffect_pos_le hl hp

theorem runRecord_pos_le {r : Effect} {s t : State} (h : runRecord r s = .ok t)
    (hp : s.pos.toNat < s.seqCount.toNat) : s.pos.toNat ≤ t.pos.toNat ∧ t.pos.toNat ≤ t.seqCount.toNat := by
  obtain ⟨-, ⟨-, rfl⟩ | ⟨-, hl⟩⟩ := runRecord_cases h
  · exact ⟨le_rfl, hp.le⟩
  · exact nextEffect_pos_le (s := latched r s) hl hp

theorem execPull_pos_le {s t : State} (hs : s.Inv) (h : execPull s = .next t) :
    s.pos.toNat ≤ t.pos.toNat ∧ t.pos.toNat ≤ t.seqCount.toNat := by
  rcases execPull_cases h with ⟨-, -, rfl⟩ | ⟨-, -, -, rfl⟩ | ⟨-, hw, ht⟩ | ⟨-, -, rfl⟩
  · exact ⟨le_rfl, hs.pos_le⟩
  · exact ⟨le_rfl, hs.pos_le⟩
  · exact tick_pos_le ht (hs.pos_lt (pullHasWork_iff.1 hw).1)
  · exact ⟨le_rfl, hs.pos_le⟩

/-- Settles O56: only NEXT and LOAD move `POS`, in a TICK and in a record run on its own. -/
theorem posNeverDecreases : Obligations.PosNeverDecreases := by
  intro i s t hs hplay h
  by_cases hpull : i = .pull
  · subst hpull
    exact execPull_pos_le hs h
  by_cases heffect : ∃ r, i = .effect r
  · obtain ⟨r, rfl⟩ := heffect
    obtain ⟨ha, -, hr⟩ := execEffect_next.1 h
    exact runRecord_pos_le hr (hs.pos_lt ha)
  · obtain ⟨p, st, d, -, -, ht⟩ := exec_ungated_cases hplay hpull (fun r hr => heffect ⟨r, hr⟩) h
    rw [ht]
    exact ⟨le_rfl, hs.pos_le⟩

/-! ## The invariant through LOAD (R44, R45, R114) -/

/-- What PLAY install and NEXT establish before LOAD: the invariant without the claims about the latch and the
counters, which LOAD makes true; the counters matter only if the sequence is already at its end. -/
structure State.LoadReady (s : State) : Prop where
  mem_wf : s.mem.wf = true
  rate_pos : 1 ≤ s.sampleRate.toNat
  size_pos : 1 ≤ s.bufferSize.toNat
  active : s.active = true
  pos_le : s.pos.toNat ≤ s.seqCount.toNat
  at_end : s.pos = s.seqCount → s.sw = s.sn
  sn_bound : s.sn.toNat < 2 ^ 54
  seq_placed : s.seqBase.toNat % 4 = 0 ∧ s.seqBase.toNat + 64 * s.seqCount.toNat ≤ 2 ^ 32
  pull_bounds : s.gate = .render → 1 ≤ s.pullLimit.toNat ∧ s.pullCount.toNat ≤ s.pullLimit.toNat
  pull_started : s.gate = .render → 1 ≤ s.pullCount.toNat
  held_placed : ∀ h, s.ctrlHold = some h → lengthOk h.len = true ∧ addressOk h.base h.len = true

/-- A usable record has at least one step (R75, R90). -/
theorem steps_pos_of_recordUsable {s : State} {r : Effect} (h : recordUsable s r = true) : 0 < r.steps.toNat := by
  have hne := ((recordUsable_iff s r).1 h).1
  bv_omega

/-- LOAD's exhausted branch reaches the idle form (R45). -/
theorem State.LoadReady.endSequence_inv {s : State} (h : s.LoadReady) (hp : s.pos = s.seqCount) :
    (endSequence s).Inv where
  mem_wf := h.mem_wf
  rate_pos := h.rate_pos
  size_pos := h.size_pos
  pos_lt := nofun
  sw_lt := nofun
  step_lt := nofun
  sps_eq := nofun
  latch_usable := nofun
  sn_bound := h.sn_bound
  seq_placed := nofun
  idle_done _ := ⟨hp, h.at_end hp⟩
  pull_bounds := h.pull_bounds
  pull_started hg _ := h.pull_started hg
  held_placed := h.held_placed

/-- A usable record with samples, latched, is an active effect within its bounds (R44). -/
theorem State.LoadReady.latched_inv {s : State} {r : Effect} (h : s.LoadReady) (hp : s.pos ≠ s.seqCount)
    (hu : recordUsable s r = true) (hn : samplesRequired r.duration s.sampleRate ≠ 0#64) : (latched r s).Inv where
  mem_wf := h.mem_wf
  rate_pos := h.rate_pos
  size_pos := h.size_pos
  pos_lt _ := lt_of_le_of_ne h.pos_le fun he => hp (BitVec.eq_of_toNat_eq he)
  sw_lt _ := by
    rw [latched_sw, latched_sn]
    bv_omega
  step_lt _ := steps_pos_of_recordUsable hu
  sps_eq _ := samplesPerStep_toNat _ _
  latch_usable _ := hu
  sn_bound := (samplesRequired_toNat _ _).2
  seq_placed _ := h.seq_placed
  idle_done ha := absurd (h.active.symm.trans ha) nofun
  pull_bounds := h.pull_bounds
  pull_started hg _ := h.pull_started hg
  held_placed := h.held_placed

/-- After a record without samples LOAD's loop starts from such a state again (R116). -/
theorem State.LoadReady.skipped_ready {s : State} (h : s.LoadReady) (hp : s.pos ≠ s.seqCount)
    (hn : samplesRequired (recordAtPos s).duration s.sampleRate = 0#64) : (skipped s).LoadReady :=
  { h with
    pos_le := by
      have hlt : s.pos.toNat < s.seqCount.toNat :=
        lt_of_le_of_ne h.pos_le fun he => hp (BitVec.eq_of_toNat_eq he)
      have hadv : (skipped s).pos.toNat = s.pos.toNat + 1 := advancePos_pos_toNat (s := latched _ s) hlt
      rw [hadv]
      exact hlt
    at_end := fun _ => hn.symm
    sn_bound := (samplesRequired_toNat _ _).2 }

/-- LOAD ends in the invariant (R44, R45). -/
theorem State.LoadReady.load_inv {s t : State} (h : s.LoadReady) (hl : load s = .ok t) : t.Inv := by
  refine load_induct (P := fun s r => s.LoadReady → ∀ t, r = .ok t → t.Inv) ?_ ?_ ?_ ?_ s h t hl
  · rintro s hp h t ⟨⟩
    exact h.endSequence_inv hp
  · rintro s - - - t ⟨⟩
  · rintro s hp hu hn h t ⟨⟩
    exact h.latched_inv hp hu hn
  · intro s hp _ hn ih h
    exact ih (h.skipped_ready hp hn)

/-! ## The invariant through the operations -/

/-- No conjunct of the invariant speaks of the output history (R42). -/
theorem State.Inv.respond_inv {s : State} (h : s.Inv) (p : Port) (st : Status) (d : Word32) :
    (respond p st d s).Inv :=
  { h with }

/-- `STEP` stays below `E.steps`: a boundary is taken only while a step is left (R33, R152). -/
theorem tickSchedule_stepIndex_lt (U : Units) {s : State} (h : s.stepIndex.toNat < s.e.steps.toNat) :
    (tickSchedule U s).stepIndex.toNat < s.e.steps.toNat := by
  rw [tickSchedule_stepIndex]
  split
  · next hb =>
    obtain ⟨-, -, -, hlast⟩ := (atStepBoundary_iff s).1 hb
    bv_omega
  · exact h

/-- A TICK that has work counts one sample more, still within `PULL_LIMIT` (R39, R183). -/
theorem pullCount_succ_toNat {s : State} (h : s.pullCount.toNat < s.pullLimit.toNat) :
    (s.pullCount + 1#31).toNat = s.pullCount.toNat + 1 := by
  bv_omega

/-- A TICK inside an effect keeps the invariant (R35, R44, R46). -/
theorem State.Inv.emitted_inv {s : State} (h : s.Inv) (U : Units) (hw : pullHasWork s = true)
    (hne : s.sw + 1#64 ≠ s.sn) : (emitted U s).Inv := by
  obtain ⟨ha, hcount⟩ := pullHasWork_iff.1 hw
  have hsucc := pullCount_succ_toNat hcount
  have hsw := h.sw_lt ha
  rw [emitted_eq]
  exact
    { h with
      sw_lt := fun _ => by
        show (s.sw + 1#64).toNat < s.sn.toNat
        bv_omega
      step_lt := fun _ => tickSchedule_stepIndex_lt U (h.step_lt ha)
      idle_done := fun hi => absurd (ha.symm.trans hi) nofun
      pull_bounds := fun hg => ⟨(h.pull_bounds hg).1, hsucc.trans_le hcount⟩
      pull_started := fun _ _ => hsucc ▸ Nat.le_add_left 1 _ }

/-- A TICK that emits its effect's last sample is ready for LOAD at the next position (R113, R156). -/
theorem State.Inv.loadReady_after_last {s : State} (h : s.Inv) (U : Units) (hw : pullHasWork s = true)
    (hlast : s.sw + 1#64 = s.sn) : (advancePos (emitted U s)).LoadReady := by
  obtain ⟨ha, hcount⟩ := pullHasWork_iff.1 hw
  have hsucc := pullCount_succ_toNat hcount
  rw [emitted_eq]
  exact
    { h with
      active := ha
      pos_le := (advancePos_pos_toNat (h.pos_lt ha)).trans_le (h.pos_lt ha)
      at_end := fun _ => hlast
      seq_placed := h.seq_placed ha
      pull_bounds := fun hg => ⟨(h.pull_bounds hg).1, hsucc.trans_le hcount⟩
      pull_started := fun _ => hsucc ▸ Nat.le_add_left 1 _ }

theorem State.Inv.tick_inv {s t : State} {U : Units} (h : s.Inv) (hw : pullHasWork s = true)
    (ht : tick U s = .ok t) : t.Inv := by
  rcases tick_cases ht with ⟨hne, rfl⟩ | ⟨hlast, hl⟩
  · exact h.emitted_inv U hw hne
  · exact (h.loadReady_after_last U hw hlast).load_inv hl

theorem State.Inv.execPull_inv {s t : State} (h : s.Inv) (hx : execPull s = .next t) : t.Inv := by
  rcases execPull_cases hx with ⟨-, -, rfl⟩ | ⟨-, ha, -, rfl⟩ | ⟨-, hw, ht⟩ | ⟨-, -, rfl⟩
  · exact h.respond_inv _ _ _
  · exact
      { h with
        pull_bounds := fun _ => ⟨h.size_pos, Nat.zero_le _⟩
        pull_started := fun _ hi => absurd (ha.symm.trans hi) nofun }
  · exact h.tick_inv hw ht
  · exact { h with pull_bounds := nofun, pull_started := nofun }

/-- An installed sequence of legal operands is not empty and lies in memory: ready for LOAD (R64, R65, R112). -/
theorem State.Inv.loadReady_installSequence {s : State} (h : s.Inv) {b : Word32} {l : BitVec 24}
    (hg : s.gate = .free) (hlen : lengthOk l = true) (haddr : addressOk b l = true) :
    (installSequence b l s).LoadReady := by
  obtain ⟨hne, hmod⟩ := (lengthOk_iff l).1 hlen
  obtain ⟨halign, hfit⟩ := (addressOk_iff b l).1 haddr
  have hcount := recordCount_toNat l
  rw [installSequence_eq]
  exact
    { h with
      active := rfl
      pos_le := Nat.zero_le _
      at_end := fun he => by
        have hzero : 0 = (BitVec.ofNat 18 (recordCount l)).toNat := congrArg BitVec.toNat he
        omega
      seq_placed := ⟨halign, by
        show b.toNat + 64 * (BitVec.ofNat 18 (recordCount l)).toNat ≤ 2 ^ 32
        omega⟩
      pull_bounds := fun hr => absurd (hg.symm.trans hr) nofun
      pull_started := fun hr => absurd (hg.symm.trans hr) nofun
      held_placed := nofun }

theorem placed_of_playValid {b : Word32} {l : BitVec 24} {s : State} (h : playValid b l s = true) :
    lengthOk l = true ∧ addressOk b l = true := by
  simp only [playValid, Bool.and_eq_true] at h
  exact h.1

theorem State.Inv.execPlay_inv {s t : State} {b : Word32} {l : BitVec 24} (h : s.Inv)
    (hx : execPlay b l s = .next t) : t.Inv := by
  rcases execPlay_cases hx with ⟨-, -, rfl⟩ | ⟨-, hv, -, rfl⟩ | ⟨hv, hg, u, hl, rfl⟩
  · exact h.respond_inv _ _ _
  · exact { h with held_placed := by rintro _ ⟨⟩; exact placed_of_playValid hv }
  · have hplaced : lengthOk l = true ∧ addressOk b l = true := by
      rcases hv with ⟨-, hv⟩ | hheld
      · exact placed_of_playValid hv
      · exact h.held_placed _ hheld
    exact ((h.loadReady_installSequence hg hplaced.1 hplaced.2).load_inv hl).respond_inv _ _ _

/-! ## The invariant through the commands without a gate -/

/-- A positive operand is stored as a legal rate or size (R21, R23, R83). -/
theorem low31_pos {a : Word32} (h : positiveSigned a = true) : 1 ≤ (low31 a).toNat := by
  have hpos := (positiveSigned_iff a).1 h
  rw [low31_toNat hpos]
  by_contra hzero
  have ha : a = 0#32 := by bv_omega
  simp [ha] at hpos

/-- The commands without a gate leave `SAMPLE_RATE` and `BUFFER_SIZE` legal (R21, R23, R216, R220). -/
theorem exec_ungated_legal {i : Instr} {s t : State} (hp : ∀ b l, i ≠ .play b l) (hq : i ≠ .pull)
    (he : ∀ r, i ≠ .effect r) (hs : 1 ≤ s.sampleRate.toNat ∧ 1 ≤ s.bufferSize.toNat) (h : exec i s = .next t) :
    1 ≤ t.sampleRate.toNat ∧ 1 ≤ t.bufferSize.toNat := by
  cases i with
  | play b l => exact absurd rfl (hp b l)
  | pull => exact absurd rfl hq
  | effect r => exact absurd rfl (he r)
  | setSampleRate a =>
    obtain ⟨-, rfl⟩ := whenControlFree_next.1 h
    split
    · next ha => exact ⟨low31_pos ha, hs.2⟩
    · exact hs
  | setBufferSize a =>
    obtain ⟨-, rfl⟩ := whenControlFree_next.1 h
    split
    · next ha => exact ⟨hs.1, low31_pos ha⟩
    · exact hs
  | setSampleRange a | setOrMask a =>
    obtain ⟨-, rfl⟩ := whenControlFree_next.1 h
    split <;> exact hs
  | getSampleRate | getSampleRange | connect a =>
    obtain ⟨-, rfl⟩ := whenControlFree_next.1 h
    exact hs
  | getFormat p =>
    cases p with
    | control =>
      obtain ⟨-, rfl⟩ := whenControlFree_next.1 h
      exact hs
    | stream =>
      obtain ⟨-, rfl⟩ := whenStreamFree_next.1 h
      exact hs

theorem State.Inv.exec_ungated_inv {i : Instr} {s t : State} (hs : s.Inv) (hp : ∀ b l, i ≠ .play b l) (hq : i ≠ .pull)
    (he : ∀ r, i ≠ .effect r) (h : exec i s = .next t) : t.Inv := by
  obtain ⟨hrate, hsize⟩ := exec_ungated_legal hp hq he ⟨hs.rate_pos, hs.size_pos⟩ h
  obtain ⟨p, st, d, -, -, ht⟩ := exec_ungated_cases hp hq he h
  rw [ht]
  exact { hs with rate_pos := hrate, size_pos := hsize }

/-! ## The invariant through a step -/

/-- Every port command keeps the invariant. A record is no port command: run on its own between PULL begin and the
first TICK it could end the sequence before a sample is counted, which R184 excludes. -/
theorem State.Inv.exec_inv {i : Instr} {s t : State} (h : s.Inv) (he : ∀ r, i ≠ .effect r)
    (hx : exec i s = .next t) : t.Inv := by
  by_cases hpull : i = .pull
  · subst hpull
    exact h.execPull_inv hx
  by_cases hplay : ∃ b l, i = .play b l
  · obtain ⟨b, l, rfl⟩ := hplay
    exact h.execPlay_inv hx
  · exact h.exec_ungated_inv (fun b l hi => hplay ⟨b, l, hi⟩) hpull he hx

/-- No conjunct of the invariant speaks of the inputs to come. -/
theorem State.Inv.took_inv {s u : State} (h : s.Inv) (hu : Took s u) : u.Inv := by
  rcases hu with rfl | ⟨x, rest, -, rfl⟩
  · exact h
  · exact { h with }

/-- Reset reaches the idle form of R270 on a canonical memory (R45, R271). -/
theorem applyReset_inv {s : State} (hm : s.mem.wf = true) : (applyReset s).Inv where
  mem_wf := hm
  rate_pos := show 1 ≤ State.reset.sampleRate.toNat by decide
  size_pos := show 1 ≤ State.reset.bufferSize.toNat by decide
  pos_lt := nofun
  sw_lt := nofun
  step_lt := nofun
  sps_eq := nofun
  latch_usable := nofun
  sn_bound := show State.reset.sn.toNat < 2 ^ 54 by decide
  seq_placed := nofun
  idle_done _ := ⟨rfl, rfl⟩
  pull_bounds := nofun
  pull_started := nofun
  held_placed := nofun

/-- Settles O52, case by case over the ways a step can end. -/
theorem stepKeepsInvariant : Obligations.StepKeepsInvariant := by
  intro s t hs hstep
  rcases step_eq_cases s with ⟨u, hu, he⟩ | ⟨a, bytes, rest, -, he⟩ | ⟨rest, -, he⟩ | ⟨p, u, hu, he⟩ |
      ⟨u, hu, -, he⟩ | ⟨u, x, hu, -, -, he⟩ | ⟨u, p, w, i, hu, -, hd, he⟩
  · -- the block keeps its state
    cases he.symm.trans hstep
    exact hs.took_inv hu
  · -- a host write
    cases he.symm.trans hstep
    exact { hs with mem_wf := Memory.wf_writeBytes a bytes hs.mem_wf }
  · -- reset
    cases he.symm.trans hstep
    exact applyReset_inv hs.mem_wf
  · -- an illegal word
    cases he.symm.trans hstep
    exact (hs.took_inv hu).respond_inv _ _ _
  · -- the PULL in progress
    exact (hs.took_inv hu).execPull_inv (he.symm.trans hstep)
  · -- the held PLAY
    exact (hs.took_inv hu).execPlay_inv (he.symm.trans hstep)
  · -- an accepted word
    exact (hs.took_inv hu).exec_inv (fun r hr => decodeCommand_ne_effect (hr ▸ hd)) (he.symm.trans hstep)

end Sys2Proof.Machine

/-! PROOFS of the family of `20_memory.md`: what a host write and a command do to `MEM` (R69), that a stored record is
fetched as its effect (R62, R66), that an undefined record is a fault (R75), and that no step of the block faults
while the host keeps R74. -/

namespace Sys2Proof.Machine

open Sys2Proof

/-! ## Records in memory (R62, R66, R90) -/

/-- An effect is made of the first fifteen words alone (R68, R92). -/
theorem Effect.ofWords_congr {f g : Nat → Word32} (h : ∀ i < 15, f i = g i) :
    Effect.ofWords f = Effect.ofWords g := by
  simp only [Effect.ofWords, h 0, h 1, h 2, h 3, h 4, h 5, h 6, h 7, h 8, h 9, h 10, h 11, h 12, h 13, h 14,
    Nat.reduceLT]

/-- Word `i` of a stored record is read back at offset `4*i` (R62, R90). -/
theorem readWord_writeBytes_recordBytes {m : Memory} (hwf : m.wf = true) (v : Record) (a : Word32) {i : Nat}
    (hi : i < 16) : (m.writeBytes a (recordBytes v)).readWord (a + BitVec.ofNat 32 (4 * i)) = v[i] := by
  obtain ⟨hlen, h0, h1, h2, h3⟩ := recordBytes_getElem v i hi
  have hfit : (recordBytes v).length ≤ 2 ^ 32 := by rw [recordBytes_length]; decide
  exact Memory.readWord_writeBytes a (recordBytes v) hwf hfit hlen h0 h1 h2 h3

/-- Settles O4, word by word. -/
theorem storedRecordIsFetched : Obligations.StoredRecordIsFetched := by
  intro m v a hwf
  refine Effect.ofWords_congr fun i hi => ?_
  have hi16 : i < 16 := by omega
  rw [readWord_writeBytes_recordBytes hwf v a hi16, Vector.getElem?_eq_getElem hi16, Option.getD_some]

/-! ## The host write (R69, R209) -/

theorem step_write {s : State} {a : Word32} {bytes : List Byte} {rest : List Input}
    (h : s.inputs = .write a bytes :: rest) :
    step s = .next { s with mem := s.mem.writeBytes a bytes, inputs := rest } := by
  simp only [step, nextStep, h]

/-- Settles O12, from the read-after-write laws of `MEM`. -/
theorem hostWriteStoresItsBytes : Obligations.HostWriteStoresItsBytes := by
  intro s a bytes rest hwf hin hlen
  exact ⟨s.mem.writeBytes a bytes, step_write hin,
    fun _ hk => Memory.readByte_writeBytes_same a bytes hwf hlen hk,
    fun _ hx => Memory.readByte_writeBytes_other s.mem a bytes hx⟩

/-! ## Commands (R43, R69) -/

theorem exec_ungated_environment {i : Instr} {s t : State} (hp : ∀ b l, i ≠ .play b l) (hq : i ≠ .pull)
    (he : ∀ r, i ≠ .effect r) (h : exec i s = .next t) : SameEnvironment s t := by
  obtain ⟨p, st, d, -, -, ht⟩ := exec_ungated_cases hp hq he h
  rw [ht]
  exact ⟨fun _ => rfl, rfl, rfl, rfl⟩

/-- Settles O41, from the frames of PLAY, PULL, a record and the commands without a gate. -/
theorem commandsNeverWriteMemory : Obligations.CommandsNeverWriteMemory := by
  intro i s t h
  by_cases hplay : ∃ b l, i = .play b l
  · obtain ⟨b, l, rfl⟩ := hplay
    exact (execPlay_frame h).env
  by_cases hpull : i = .pull
  · subst hpull
    exact (execPull_frame h).env
  by_cases heffect : ∃ r, i = .effect r
  · obtain ⟨r, rfl⟩ := heffect
    obtain ⟨-, -, hr⟩ := execEffect_next.1 h
    exact (runRecord_queueOnly hr).env
  · exact exec_ungated_environment (fun b l hi => hplay ⟨b, l, hi⟩) hpull (fun r hi => heffect ⟨r, hi⟩) h

/-! ## An undefined record (R75, U3) -/

/-- While a record stands at `POS`, EFFECT is the run of its record (R114). -/
theorem execEffect_enabled {s : State} (r : Effect) (ha : s.active = true) (hp : s.pos ≠ s.seqCount) :
    execEffect r s = finish (runRecord r s) := by
  simp [execEffect, ha, hp]

theorem runRecord_of_unusable {r : Effect} {s : State} (h : recordUsable s r = false) :
    runRecord r s = .error .invalidRecord := by
  rw [runRecord, latch_of_unusable h]

/-- Settles O33: such a record is not usable, and LOAD stops before it is latched. -/
theorem undefinedRecordFaults : Obligations.UndefinedRecordFaults := by
  intro r s ha hp hbad
  have hu : recordUsable s r = false := by
    refine Bool.eq_false_iff.2 fun hu => ?_
    obtain ⟨hsteps, htone, hfx⟩ := (recordUsable_iff s r).1 hu
    rcases hbad with h0 | hunknown | ⟨b, hb, habsent, hunknown⟩
    · exact hsteps h0
    · exact hunknown htone
    · exact (hfx b hb).elim habsent hunknown
  exact (execEffect_enabled r ha hp).trans (finish_fault.2 (runRecord_of_unusable hu))

/-! ## A region of records depends on its own bytes (R66, R74)

A sequence of `n` records at `b` occupies the bytes from `b` to `b + 64*n`, which do not pass the top of memory
(R65). -/

/-- Record `i` of the sequence is read alike in two memories that agree on the sequence's bytes. -/
theorem readRecord_region_congr {m m' : Memory} {b : Word32} {n i : Nat} (hfit : b.toNat + 64 * n ≤ 2 ^ 32)
    (hi : i < n) (h : ∀ x, b.toNat ≤ x → x < b.toNat + 64 * n → m'.readByte x = m.readByte x) :
    m'.readRecord (b + BitVec.ofNat 32 (64 * i)) = m.readRecord (b + BitVec.ofNat 32 (64 * i)) := by
  refine Memory.readRecord_congr fun j hj => ?_
  have haddr : (b + BitVec.ofNat 32 (64 * i) + BitVec.ofNat 32 j).toNat = b.toNat + (64 * i + j) := by
    rw [BitVec.add_assoc, ← BitVec.ofNat_add, BitVec.toNat_add, BitVec.toNat_ofNat]
    omega
  rw [haddr]
  exact h _ (by omega) (by omega)

/-- PLAY's checks pass alike in two states that agree on the tables and on the sequence's bytes (R111). -/
theorem recordsAccepted_region_congr {s t : State} {b : Word32} {n : Nat} (hfit : b.toNat + 64 * n ≤ 2 ^ 32)
    (htp : t.tpKeys = s.tpKeys) (hfx : t.fxKeys = s.fxKeys)
    (h : ∀ x, b.toNat ≤ x → x < b.toNat + 64 * n → t.mem.readByte x = s.mem.readByte x)
    (hs : recordsAccepted s n b = true) : recordsAccepted t n b = true := by
  rw [recordsAccepted_iff] at hs ⊢
  intro i hi
  have hrec := hs i hi
  rw [recordAccepted_eq, recordUsable_iff] at hrec ⊢
  rwa [readRecord_region_congr hfit hi h, htp, hfx]

/-! ## What intactness speaks of (R44, R74) -/

/-- The second state holds what the first one holds: the same sequences, position and latch, and the same bytes in
every byte the first one holds. -/
structure SameHolding (s t : State) : Prop where
  bytes : ∀ x, s.HoldsByte x → t.mem.readByte x = s.mem.readByte x
  tones : t.tpKeys = s.tpKeys
  effects : t.fxKeys = s.fxKeys
  active : t.active = s.active
  base : t.seqBase = s.seqBase
  count : t.seqCount = s.seqCount
  pos : t.pos = s.pos
  latch : t.e = s.e
  hold : t.ctrlHold = s.ctrlHold

theorem SameHolding.refl (s : State) : SameHolding s s :=
  ⟨fun _ _ => rfl, rfl, rfl, rfl, rfl, rfl, rfl, rfl, rfl⟩

/-- The bytes of a held PLAY's operands, in records (R111, R112). -/
theorem held_region {h : HeldPlay} (hlen : lengthOk h.len = true) (haddr : addressOk h.base h.len = true) :
    64 * recordCount h.len = h.len.toNat ∧ h.base.toNat + 64 * recordCount h.len ≤ 2 ^ 32 := by
  have hmod := ((lengthOk_iff h.len).1 hlen).2
  have hfit := ((addressOk_iff h.base h.len).1 haddr).2
  simp only [recordCount, Config.recordBytes]
  omega

/-- Intactness depends on nothing but what `SameHolding` lists: the held regions lie in memory without a wrap. -/
theorem State.SequencesIntact.of_sameHolding {s t : State} (h : s.SequencesIntact) (hs : s.Inv)
    (hk : SameHolding s t) : t.SequencesIntact where
  active_ok ha := by
    rw [hk.active] at ha
    rw [hk.base, hk.count]
    exact recordsAccepted_region_congr (hs.seq_placed ha).2 hk.tones hk.effects
      (fun x hlo hhi => hk.bytes x (.inl ⟨ha, hlo, hhi⟩)) (h.active_ok ha)
  latch_current ha := by
    rw [hk.active] at ha
    rw [hk.latch, ← h.latch_current ha, recordAtPos_eq, recordAtPos_eq, hk.base, hk.pos]
    exact readRecord_region_congr (hs.seq_placed ha).2 (hs.pos_lt ha)
      fun x hlo hhi => hk.bytes x (.inl ⟨ha, hlo, hhi⟩)
  held_ok x hx := by
    rw [hk.hold] at hx
    obtain ⟨hlen, haddr⟩ := hs.held_placed x hx
    obtain ⟨hcount, hfit⟩ := held_region hlen haddr
    exact recordsAccepted_region_congr hfit hk.tones hk.effects
      (fun y hlo hhi => hk.bytes y (.inr ⟨x, hx, hlo, hcount ▸ hhi⟩)) (h.held_ok x hx)

/-- A host write that keeps R74 leaves every held byte alone. -/
theorem lawfulWrite_sameHolding {s : State} {a : Word32} {bytes : List Byte} {rest : List Input}
    (hlawful : s.HostLawful) (hin : s.inputs = .write a bytes :: rest) :
    SameHolding s { s with mem := s.mem.writeBytes a bytes, inputs := rest } :=
  { SameHolding.refl s with
    bytes := fun _ hx => Memory.readByte_writeBytes_other s.mem a bytes fun k hk he =>
      hlawful a bytes rest hin k hk (he ▸ hx) }

theorem Took.sameHolding {s u : State} (hu : Took s u) : SameHolding s u := by
  rcases hu with rfl | ⟨x, rest, -, rfl⟩
  · exact SameHolding.refl _
  · exact { SameHolding.refl s with }

theorem respond_sameHolding (p : Port) (st : Status) (d : Word32) (s : State) :
    SameHolding s (respond p st d s) :=
  { SameHolding.refl s with }

theorem emitted_sameHolding (U : Units) (s : State) : SameHolding s (emitted U s) := by
  rw [emitted_eq]
  exact { SameHolding.refl s with }

/-- After reset the block holds nothing (R27, R40, R270). -/
theorem applyReset_intact (s : State) : (applyReset s).SequencesIntact where
  active_ok := nofun
  latch_current := nofun
  held_ok := nofun

/-! ## No operation stops on intact sequences -/

/-- The outcome is a next state whose held sequences are intact. -/
def NextIntact (o : Host.Outcome State Fault Refusal) : Prop := ∃ t, o = .next t ∧ t.SequencesIntact

/-- LOAD of a sequence as PLAY accepted it does not fault, and latches the record at the `POS` it reaches (R114). -/
theorem load_intact {s : State} (hp : s.pos.toNat ≤ s.seqCount.toNat)
    (hseq : recordsAccepted s s.seqCount.toNat s.seqBase = true)
    (hheld : ∀ h, s.ctrlHold = some h → recordsAccepted s (recordCount h.len) h.base = true) :
    ∃ t, load s = .ok t ∧ t.SequencesIntact := by
  obtain ⟨t, hl⟩ := load_ok_of_accepted hp fun i _ hi => (recordsAccepted_iff _ _ _).1 hseq i hi
  have hq := load_queueOnly hl
  obtain ⟨-, htp, hfx, -⟩ := hq.env
  have hmem : t.mem = s.mem := (congrArg State.mem (load_frame hl)).trans rfl
  have hacc := recordsAccepted_congr hmem htp hfx
  refine ⟨t, hl, fun _ => ?_, fun ha => ?_, fun h hh => ?_⟩
  · rw [hacc, hq.count, hq.base]
    exact hseq
  · rcases load_cases hl with hfresh | hended
    · exact hfresh.record.symm
    · exact absurd (ha.symm.trans hended.active_eq) nofun
  · rw [hacc]
    exact hheld h (hq.hold ▸ hh)

theorem State.SequencesIntact.tick_intact {s : State} (h : s.SequencesIntact) (hs : s.Inv) (U : Units)
    (hw : pullHasWork s = true) : ∃ t, tick U s = .ok t ∧ t.SequencesIntact := by
  have he := h.of_sameHolding hs (emitted_sameHolding U s)
  by_cases hlast : s.sw + 1#64 = s.sn
  · rw [tick_completes hlast]
    have ha : (emitted U s).active = true := by
      rw [(emitted_sameHolding U s).active]
      exact (pullHasWork_iff.1 hw).1
    have hacc := recordsAccepted_congr (s := emitted U s) (t := advancePos (emitted U s)) rfl rfl rfl
    exact load_intact (hs.loadReady_after_last U hw hlast).pos_le ((hacc _ _).trans (he.active_ok ha))
      fun x hx => (hacc _ _).trans (he.held_ok x hx)
  · exact ⟨_, tick_within hlast, he⟩

/-- PULL goes on unless a held PLAY keeps it from beginning (R206). -/
theorem State.SequencesIntact.execPull_intact {s : State} (h : s.SequencesIntact) (hs : s.Inv)
    (hfirst : s.gate = .free → s.active = true → s.ctrlHold = none) : NextIntact (execPull s) := by
  unfold execPull pullStep
  cases hg : s.gate with
  | free =>
    cases ha : s.active with
    | false => exact ⟨_, rfl, h.of_sameHolding hs (respond_sameHolding _ _ _ s)⟩
    | true =>
      have hbegin : SameHolding s (pullBegin s) := { SameHolding.refl s with }
      simp only [hfirst hg ha, if_true]
      exact ⟨_, rfl, h.of_sameHolding hs hbegin⟩
  | render =>
    cases hw : pullHasWork s with
    | false =>
      have hend : SameHolding s (pullEnd s) := { SameHolding.refl s with }
      exact ⟨_, rfl, h.of_sameHolding hs hend⟩
    | true =>
      obtain ⟨t, ht, hi⟩ := h.tick_intact hs Config.units hw
      exact ⟨t, finish_next.2 ht, hi⟩

/-- The install writes neither `MEM` nor the tables, so PLAY's checks pass after it as before (R111, R112). -/
theorem recordsAccepted_installSequence (b : Word32) (l : BitVec 24) (s : State) (n : Nat) (r : Word32) :
    recordsAccepted (installSequence b l s) n r = recordsAccepted s n r := by
  rw [installSequence_eq]
  refine recordsAccepted_congr ?_ ?_ ?_ n r <;> rfl

/-- The install of a sequence that passed validation (R111, R112). -/
theorem State.Inv.playInstall_intact {s : State} (hs : s.Inv) {b : Word32} {l : BitVec 24} (hg : s.gate = .free)
    (hlen : lengthOk l = true) (haddr : addressOk b l = true) (hacc : recordsAccepted s (recordCount l) b = true) :
    NextIntact (finish (playInstall b l s)) := by
  have hready := hs.loadReady_installSequence hg hlen haddr
  have hseq : recordsAccepted (installSequence b l s) (installSequence b l s).seqCount.toNat
      (installSequence b l s).seqBase = true := by
    have hcount : (installSequence b l s).seqCount.toNat = recordCount l := recordCount_toNat l
    rw [hcount, recordsAccepted_installSequence]
    exact hacc
  obtain ⟨u, hl, hi⟩ := load_intact hready.pos_le hseq nofun
  refine ⟨respond .control .ok 0#32 u, ?_, hi.of_sameHolding (hready.load_inv hl) (respond_sameHolding _ _ _ u)⟩
  rw [playInstall, hl]
  rfl

/-- A PLAY that passed validation, held, is intact beside the installed sequence (R203). -/
theorem State.SequencesIntact.playHold_intact {s : State} (h : s.SequencesIntact) {b : Word32} {l : BitVec 24}
    (hacc : recordsAccepted s (recordCount l) b = true) : (playHold b l s).SequencesIntact := by
  have hsame := recordsAccepted_congr (s := s) (t := playHold b l s) rfl rfl rfl
  refine ⟨fun ha => (hsame _ _).trans (h.active_ok ha), h.latch_current, ?_⟩
  rintro _ ⟨⟩
  exact (hsame _ _).trans hacc

/-- A newly issued PLAY fails at once, installs or becomes held (R111, R112, R203, R204). -/
theorem State.SequencesIntact.newPlay_intact {s : State} (h : s.SequencesIntact) (hs : s.Inv) (b : Word32)
    (l : BitVec 24) (hnone : s.ctrlHold = none) : NextIntact (execPlay b l s) := by
  unfold execPlay
  simp only [hnone]
  cases hv : playValid b l s with
  | false => exact ⟨_, rfl, h.of_sameHolding hs (respond_sameHolding _ _ _ s)⟩
  | true =>
    have hchecks := hv
    simp only [playValid, Bool.and_eq_true] at hchecks
    obtain ⟨⟨hlen, haddr⟩, hacc⟩ := hchecks
    cases hg : s.gate with
    | free => exact hs.playInstall_intact hg hlen haddr hacc
    | render => exact ⟨_, rfl, h.playHold_intact hacc⟩

/-- A held PLAY installs once the gate is free: its records are still as they were accepted (R74, R203). -/
theorem State.SequencesIntact.heldPlay_intact {s : State} (h : s.SequencesIntact) (hs : s.Inv) {x : HeldPlay}
    (hheld : s.ctrlHold = some x) (hg : s.gate = .free) : NextIntact (execPlay x.base x.len s) := by
  obtain ⟨hlen, haddr⟩ := hs.held_placed x hheld
  have hinstall := hs.playInstall_intact hg hlen haddr (h.held_ok x hheld)
  simpa only [execPlay, hheld, hg, and_self, if_true] using hinstall

/-- A command without a gate answers next when its port may take it (R40, R41, R205). -/
theorem exec_ungated_next {i : Instr} {s : State} (hp : ∀ b l, i ≠ .play b l) (hq : i ≠ .pull)
    (he : ∀ r, i ≠ .effect r) (hcontrol : i ≠ .getFormat .stream → s.ctrlHold = none)
    (hstream : i = .getFormat .stream → s.gate = .free) : ∃ t, exec i s = .next t := by
  cases i with
  | play b l => exact absurd rfl (hp b l)
  | pull => exact absurd rfl hq
  | effect r => exact absurd rfl (he r)
  | getFormat p =>
    cases p with
    | control => exact ⟨_, whenControlFree_next.2 ⟨hcontrol nofun, rfl⟩⟩
    | stream => exact ⟨_, whenStreamFree_next.2 ⟨hstream rfl, rfl⟩⟩
  | setSampleRate a | setSampleRange a | setBufferSize a | setOrMask a | connect a | getSampleRate
  | getSampleRange => exact ⟨_, whenControlFree_next.2 ⟨hcontrol nofun, rfl⟩⟩

theorem exec_ungated_sameHolding {i : Instr} {s t : State} (hp : ∀ b l, i ≠ .play b l) (hq : i ≠ .pull)
    (he : ∀ r, i ≠ .effect r) (h : exec i s = .next t) : SameHolding s t := by
  obtain ⟨p, st, d, -, -, ht⟩ := exec_ungated_cases hp hq he h
  rw [ht]
  exact { SameHolding.refl s with }

/-! ## The accepted word (R209) -/

/-- What a port that takes a word says of the state, for the command the word is (R40, R41, R206). -/
theorem portAccepts_enabled {s : State} {p : Port} {w : Word64} {i : Instr} (hp : portAccepts s p w = true)
    (hd : decodeCommand p w = .ok i) :
    (i ≠ .pull → i ≠ .getFormat .stream → s.ctrlHold = none) ∧ (i = .getFormat .stream → s.gate = .free) ∧
      (i = .pull → s.active = true → s.ctrlHold = none) := by
  obtain ⟨hport, hown⟩ := decodeCommand_legal hd
  cases p with
  | control =>
    have hnone : s.ctrlHold = none := by simpa [portAccepts] using hp
    exact ⟨fun _ _ => hnone, fun hi => absurd (hown .stream hi) nofun, fun _ _ => hnone⟩
  | stream =>
    simp only [portAccepts, Bool.and_eq_true, beq_iff_eq, hd] at hp
    obtain ⟨hg, hfirst⟩ := hp
    refine ⟨fun hpull hformat => ?_, fun _ => hg, ?_⟩
    · cases i with
      | pull => exact absurd rfl hpull
      | getFormat q => exact absurd (congrArg Instr.getFormat (hown q rfl)) hformat
      | _ => simp [Instr.ports] at hport
    · rintro rfl ha
      simpa [ha] using hfirst

/-- An accepted word answers next and leaves the held sequences intact. -/
theorem State.SequencesIntact.exec_intact {s : State} (h : s.SequencesIntact) (hs : s.Inv) {p : Port} {w : Word64}
    {i : Instr} (hp : portAccepts s p w = true) (hd : decodeCommand p w = .ok i) : NextIntact (exec i s) := by
  obtain ⟨hcontrol, hstream, hpullFirst⟩ := portAccepts_enabled hp hd
  have hrecord : ∀ r, i ≠ .effect r := fun r hr => decodeCommand_ne_effect (hr ▸ hd)
  by_cases hpull : i = .pull
  · subst hpull
    exact h.execPull_intact hs fun _ => hpullFirst rfl
  by_cases hplay : ∃ b l, i = .play b l
  · obtain ⟨b, l, rfl⟩ := hplay
    exact h.newPlay_intact hs b l (hcontrol hpull nofun)
  · have hplay' : ∀ b l, i ≠ .play b l := fun b l hi => hplay ⟨b, l, hi⟩
    obtain ⟨t, ht⟩ := exec_ungated_next hplay' hpull hrecord (hcontrol hpull) hstream
    exact ⟨t, ht, h.of_sameHolding hs (exec_ungated_sameHolding hplay' hpull hrecord ht)⟩

/-! ## The lawful step (R74) -/

/-- A lawful step goes on and keeps the held sequences intact, case by case over the ways a step can end. -/
theorem State.SequencesIntact.step_intact {s : State} (h : s.SequencesIntact) (hs : s.Inv) (hlawful : s.HostLawful) :
    NextIntact (step s) := by
  have took : ∀ {u}, Took s u → u.SequencesIntact ∧ u.Inv := fun hu =>
    ⟨h.of_sameHolding hs hu.sameHolding, hs.took_inv hu⟩
  rcases step_eq_cases s with ⟨u, hu, he⟩ | ⟨a, bytes, rest, hin, he⟩ | ⟨rest, -, he⟩ | ⟨p, u, hu, he⟩ |
      ⟨u, hu, hg, he⟩ | ⟨u, x, hu, hg, hheld, he⟩ | ⟨u, p, w, i, hu, hport, hd, he⟩
  · -- the block keeps its state
    exact ⟨u, he, (took hu).1⟩
  · -- a host write
    exact ⟨_, he, h.of_sameHolding hs (lawfulWrite_sameHolding hlawful hin)⟩
  · -- reset
    exact ⟨_, he, applyReset_intact _⟩
  · -- an illegal word
    obtain ⟨hi, hinv⟩ := took hu
    exact ⟨_, he, hi.of_sameHolding hinv (respond_sameHolding _ _ _ u)⟩
  · -- the PULL in progress
    obtain ⟨hi, hinv⟩ := took hu
    exact he ▸ hi.execPull_intact hinv fun hfree => absurd (hg.symm.trans hfree) nofun
  · -- the held PLAY
    obtain ⟨hi, hinv⟩ := took hu
    exact he ▸ hi.heldPlay_intact hinv hheld hg
  · -- an accepted word
    obtain ⟨hi, hinv⟩ := took hu
    exact he ▸ hi.exec_intact hinv hport hd

/-- Settles O53: a lawful step goes on with the held sequences intact, and every step keeps the invariant. -/
theorem lawfulStepNeverFaults : Obligations.LawfulStepNeverFaults := by
  intro s hs hi hlawful
  obtain ⟨t, ht, hintact⟩ := hi.step_intact hs hlawful
  exact ⟨t, ht, stepKeepsInvariant s t hs ht, hintact⟩

end Sys2Proof.Machine

/-! PROOFS of the family of `30_encoding.md`: the encoding round trip (R81, R82, R90), the illegal words of R85, and
the format of responses (R86, R240). -/

namespace Sys2Proof.Machine

open Sys2Proof

/-! ## Decoding what the encoder wrote (R81, R82, R90) -/

/-- The encoder puts a command on a port where R84 allows it. -/
theorem encode_port {i : Instr} {p : Port} {w : Word64} (h : encode i = .command p w) : p ∈ i.ports := by
  cases i with
  | effect r => cases h
  | getFormat q => cases p <;> simp [Instr.ports]
  | play b l | setSampleRate a | setSampleRange a | setBufferSize a | setOrMask a | connect a | getSampleRate
  | getSampleRange | pull =>
    cases h
    simp [Instr.ports]

/-- The decoder reads the opcode, finds the fields that must be zero to be zero, and the port allowed. -/
theorem decodeCommand_of_encode {i : Instr} {p : Port} {w : Word64} (h : encode i = .command p w) :
    decodeCommand p w = .ok i := by
  have hport := encode_port h
  cases i with
  | effect r => cases h
  | play b l | setSampleRate a | setSampleRange a | setBufferSize a | setOrMask a | connect a | getSampleRate
  | getSampleRange | getFormat q | pull =>
    cases h
    simp only [decodeCommand, cmdOp_cmdWord, cmdB_cmdWord, cmdA_cmdWord]
    exact acceptOn_ok.2 ⟨rfl, hport, rfl⟩

/-- The fifteen fields stand in the record in the order in which they are read back (R90). -/
theorem decodeRecord_toRecord (r : Effect) : decodeRecord r.toRecord = r := rfl

/-- Settles O1: a command is read back from its word, a record from its sixteen words. -/
theorem decodeOfEncodeIsIdentity : Obligations.DecodeOfEncodeIsIdentity := by
  intro i
  cases he : encode i with
  | command p w => exact decodeCommand_of_encode he
  | record v =>
    cases i with
    | effect r =>
      cases he
      exact congrArg (fun e => Except.ok (Instr.effect e)) (decodeRecord_toRecord r)
    | _ => cases he

/-! ## The illegal words (R84, R85) -/

/-- R85(a). -/
def ReservedOpcode (op : Nat) : Prop := op = 0 ∨ 0x0B ≤ op

/-- R85(b), the zeros of R82. -/
def NonzeroField (op b a : Nat) : Prop :=
  (op ≠ 1 ∧ b ≠ 0) ∨ ((op = 3 ∨ op = 5 ∨ op = 9 ∨ op = 10) ∧ a ≠ 0)

/-- R85(c), the ports of R84. -/
def OnWrongPort (p : Port) (op : Nat) : Prop := (p = .control ∧ op = 10) ∨ (p = .stream ∧ op < 9)

/-- Illegal on the port: one of R85(a), (b), (c), by the word's fields (R81). -/
def IllegalWord (p : Port) (w : Word64) : Prop :=
  ReservedOpcode (cmdOp w).toNat ∨ NonzeroField (cmdOp w).toNat (cmdB w).toNat (cmdA w).toNat ∨
    OnWrongPort p (cmdOp w).toNat

/-- What the decoder makes of a word whose opcode is legal: `i`, accepted if `zero` and the port allow it; and then
the word is the encoding of `i`. -/
structure ReadsAs (p : Port) (w : Word64) (zero : Bool) (i : Instr) : Prop where
  opcode : ¬ ReservedOpcode (cmdOp w).toNat
  fields : zero = true ↔ ¬ NonzeroField (cmdOp w).toNat (cmdB w).toNat (cmdA w).toNat
  port : p ∈ i.ports ↔ ¬ OnWrongPort p (cmdOp w).toNat
  encoded : zero = true → p ∈ i.ports → encode i = .command p w

theorem cmdWord_of_opcode {w : Word64} {n : Nat} (h : (cmdOp w).toNat = n) :
    cmdWord (BitVec.ofNat 8 n) (cmdB w) (cmdA w) = w := by
  rw [← h, BitVec.ofNat_toNat, BitVec.setWidth_eq, cmdWord_fields]

/-- Everything the decoder can do with a word: the opcode is reserved, or it names a command (R82, R85). -/
theorem decodeCommand_cases (p : Port) (w : Word64) :
    (ReservedOpcode (cmdOp w).toNat ∧ decodeCommand p w = .error .reservedOpcode) ∨
      ∃ zero i, ReadsAs p w zero i ∧ decodeCommand p w = acceptOn p zero i := by
  unfold decodeCommand
  simp only
  split
  case h_11 =>
    refine .inl ⟨?_, rfl⟩
    simp only [imp_false] at *
    unfold ReservedOpcode
    omega
  all_goals
    next h =>
      refine .inr ⟨_, _, ⟨?_, ?_, ?_, fun hzero hport => ?_⟩, rfl⟩
      · simp [ReservedOpcode, h]
      · simp [NonzeroField, h, BitVec.toNat_eq]
      · cases p <;> simp [OnWrongPort, h, Instr.ports]
      · have hw := cmdWord_of_opcode h
        simp_all [encode, Instr.ports]

theorem acceptOn_error {p : Port} {zero : Bool} {i : Instr} (h : ¬ (zero = true ∧ p ∈ i.ports)) :
    ∃ c, acceptOn p zero i = .error c := by
  cases ha : acceptOn p zero i with
  | error c => exact ⟨c, rfl⟩
  | ok j =>
    obtain ⟨hzero, hport, -⟩ := acceptOn_ok.1 ha
    exact absurd ⟨hzero, hport⟩ h

/-- Settles O2, from what the decoder makes of a word with a legal opcode. -/
theorem commandWordsHaveOneMeaning : Obligations.CommandWordsHaveOneMeaning := by
  intro p w i h
  rcases decodeCommand_cases p w with ⟨-, hd⟩ | ⟨zero, j, hr, hd⟩
  · cases hd.symm.trans h
  · obtain ⟨hzero, hport, rfl⟩ := acceptOn_ok.1 (hd.symm.trans h)
    exact hr.encoded hzero hport

theorem ReadsAs.illegalWord_iff {p : Port} {w : Word64} {zero : Bool} {i : Instr} (h : ReadsAs p w zero i) :
    IllegalWord p w ↔ ¬ (zero = true ∧ p ∈ i.ports) := by
  have hop := h.opcode
  rw [IllegalWord, h.fields, h.port]
  tauto

theorem decodeCommand_of_illegal {p : Port} {w : Word64} (h : IllegalWord p w) :
    ∃ c, decodeCommand p w = .error c := by
  rcases decodeCommand_cases p w with ⟨-, hd⟩ | ⟨zero, i, hr, hd⟩
  · exact ⟨_, hd⟩
  · rw [hd]
    exact acceptOn_error (hr.illegalWord_iff.1 h)

theorem decodeCommand_of_legal {p : Port} {w : Word64} (h : ¬ IllegalWord p w) : ∃ i, decodeCommand p w = .ok i := by
  rcases decodeCommand_cases p w with ⟨hreserved, -⟩ | ⟨zero, i, hr, hd⟩
  · exact absurd (.inl hreserved) h
  · obtain ⟨hzero, hport⟩ := not_not.1 (hr.illegalWord_iff.not.1 h)
    exact ⟨i, hd.trans (acceptOn_ok.2 ⟨hzero, hport, rfl⟩)⟩

theorem issueWord_of_ok {p : Port} {w : Word64} {i : Instr} (h : decodeCommand p w = .ok i) (s : State) :
    issueWord p w s = exec i s := by
  rw [issueWord, h]

theorem issueWord_of_error {p : Port} {w : Word64} {c : IllegalCause} (h : decodeCommand p w = .error c) (s : State) :
    issueWord p w s = .next (raiseIllegalCommand p s) := by
  rw [issueWord, h]

/-- The answer to an illegal word is one response, of status 2 and `DATA` 0, and nothing else (R85, R243). -/
theorem raiseIllegalCommand_eq (p : Port) (s : State) :
    raiseIllegalCommand p s = { s with out := s.out ++ [.response p 0x0200000000000000#64] } := by
  rw [← rspWord_illegal_zero]
  rfl

/-- The fields of an illegal word as quotients and remainders of its value (R81). -/
theorem illegalWord_toNat_iff (p : Port) (w : Word64) :
    IllegalWord p w ↔
      ReservedOpcode (w.toNat / 2 ^ 56) ∨
        NonzeroField (w.toNat / 2 ^ 56) (w.toNat / 2 ^ 32 % 2 ^ 24) (w.toNat % 2 ^ 32) ∨
        OnWrongPort p (w.toNat / 2 ^ 56) := by
  rw [IllegalWord, cmdOp_toNat, cmdB_toNat, cmdA_toNat]

/-- Settles O3: R85 read off the word's fields decides between the two ends of `issueWord`. -/
theorem illegalWordsAnswerIllegalCommand : Obligations.IllegalWordsAnswerIllegalCommand := by
  intro p w s
  refine ⟨fun h => ?_, fun h => ?_⟩
  · obtain ⟨c, hc⟩ := decodeCommand_of_illegal ((illegalWord_toNat_iff p w).2 h)
    rw [issueWord_of_error hc, raiseIllegalCommand_eq]
  · obtain ⟨i, hi⟩ := decodeCommand_of_legal ((illegalWord_toNat_iff p w).not.2 h)
    exact ⟨i, hi, issueWord_of_ok hi s⟩

/-- Settles O5: each of the twelve words is a closed term that the decoder evaluates. -/
theorem knownWordsDecode : Obligations.KnownWordsDecode := by
  unfold Obligations.KnownWordsDecode
  decide

/-! ## Responses (R86, R240) -/

/-- From `s` to `t` the history grows, and each response it gained goes to one of the ports and has `DATA` 0 unless
its status is `OK` (R86, R242). -/
def Answers (ports : List Port) (s t : State) : Prop :=
  ∃ new, t.out = s.out ++ new ∧
    ∀ p w, .response p w ∈ new → p ∈ ports ∧ ∃ st d, w = rspWord st d ∧ (st ≠ .ok → d = 0#32)

theorem Answers.trans {ports : List Port} {s t u : State} (h : Answers ports s t) (g : Answers ports t u) :
    Answers ports s u := by
  obtain ⟨new, ht, hnew⟩ := h
  obtain ⟨more, hu, hmore⟩ := g
  refine ⟨new ++ more, by rw [hu, ht, List.append_assoc], fun p w hin => ?_⟩
  exact (List.mem_append.1 hin).elim (hnew p w) (hmore p w)

/-- Outputs that are no responses are no answer. -/
theorem answers_of_silent {ports : List Port} {s t : State} {new : List Output} (h : t.out = s.out ++ new)
    (hnew : ∀ p w, .response p w ∉ new) : Answers ports s t :=
  ⟨new, h, fun p w hin => absurd hin (hnew p w)⟩

theorem answers_of_out_eq {ports : List Port} {s t : State} (h : t.out = s.out) : Answers ports s t :=
  answers_of_silent (new := []) (by rw [h, List.append_nil]) nofun

theorem answers_of_respond {ports : List Port} {p : Port} {st : Status} {d : Word32} {s t : State}
    (h : t.out = s.out ++ [.response p (rspWord st d)]) (hp : p ∈ ports) (hd : st ≠ .ok → d = 0#32) :
    Answers ports s t := by
  refine ⟨_, h, fun q w hin => ?_⟩
  cases List.mem_singleton.1 hin
  exact ⟨hp, st, d, rfl, hd⟩

theorem load_answers {ports : List Port} {s t : State} (h : load s = .ok t) : Answers ports s t := by
  rcases load_out h with hout | hout
  · exact answers_of_out_eq hout
  · exact answers_of_silent hout (by simp)

theorem emitted_answers {ports : List Port} (U : Units) (s : State) : Answers ports s (emitted U s) := by
  refine answers_of_silent (new := [.sample (sampleWord U (tickSchedule U s))]) ?_ (by simp)
  rw [emitted_eq]

theorem tick_answers {ports : List Port} {U : Units} {s t : State} (h : tick U s = .ok t) : Answers ports s t := by
  rcases tick_cases h with ⟨-, rfl⟩ | ⟨-, hl⟩
  · exact emitted_answers U s
  · exact (emitted_answers U s).trans (load_answers (s := advancePos (emitted U s)) hl)

theorem runRecord_answers {ports : List Port} {r : Effect} {s t : State} (h : runRecord r s = .ok t) :
    Answers ports s t := by
  obtain ⟨-, ⟨-, rfl⟩ | ⟨-, hl⟩⟩ := runRecord_cases h
  · exact answers_of_out_eq rfl
  · exact (answers_of_out_eq (t := advancePos (latched r s)) rfl).trans (load_answers hl)

theorem installSequence_answers {ports : List Port} (b : Word32) (l : BitVec 24) (s : State) :
    Answers ports s (installSequence b l s) := by
  cases ha : s.active with
  | false => exact answers_of_out_eq (by simp [installSequence, ha])
  | true => exact answers_of_silent (new := [.release s.seqBase]) (by simp [installSequence, ha]) (by simp)

theorem execPlay_answers {b : Word32} {l : BitVec 24} {s t : State} (h : execPlay b l s = .next t) :
    Answers [.control] s t := by
  have hport : Port.control ∈ [Port.control] := List.mem_singleton.2 rfl
  rcases execPlay_cases h with ⟨-, -, rfl⟩ | ⟨-, -, -, rfl⟩ | ⟨-, -, u, hl, rfl⟩
  · exact answers_of_respond rfl hport fun _ => rfl
  · exact answers_of_out_eq rfl
  · exact ((installSequence_answers b l s).trans (load_answers hl)).trans
      (answers_of_respond rfl hport fun _ => rfl)

theorem execPull_answers {s t : State} (h : execPull s = .next t) : Answers [.stream] s t := by
  have hport : Port.stream ∈ [Port.stream] := List.mem_singleton.2 rfl
  rcases execPull_cases h with ⟨-, -, rfl⟩ | ⟨-, -, -, rfl⟩ | ⟨-, -, ht⟩ | ⟨-, -, rfl⟩
  · exact answers_of_respond rfl hport fun _ => rfl
  · exact answers_of_out_eq rfl
  · exact tick_answers ht
  · exact answers_of_respond rfl hport fun hst => absurd rfl hst

/-- Every instruction answers, if at all, on a port where it is legal (R86). -/
theorem exec_answers {i : Instr} {s t : State} (h : exec i s = .next t) : Answers i.ports s t := by
  by_cases hplay : ∃ b l, i = .play b l
  · obtain ⟨b, l, rfl⟩ := hplay
    exact execPlay_answers h
  by_cases hpull : i = .pull
  · subst hpull
    exact execPull_answers h
  by_cases heffect : ∃ r, i = .effect r
  · obtain ⟨r, rfl⟩ := heffect
    obtain ⟨-, -, hr⟩ := execEffect_next.1 h
    exact runRecord_answers hr
  · obtain ⟨p, st, d, hp, hfail, ht⟩ :=
      exec_ungated_cases (fun b l hi => hplay ⟨b, l, hi⟩) hpull (fun r hi => heffect ⟨r, hi⟩) h
    exact answers_of_respond (congrArg State.out ht) hp fun hst => (hfail hst).1

theorem Status.code_toNat_le (st : Status) : st.code.toNat ≤ 2 := by
  cases st <;> decide

theorem Status.code_toNat_eq_zero {st : Status} : st.code.toNat = 0 ↔ st = .ok := by
  cases st <;> decide

/-- Settles O48, from what each instruction answers and the fields of a response word. -/
theorem responsesHaveResponseFormat : Obligations.ResponsesHaveResponseFormat := by
  intro i s t new p w h hout hin
  obtain ⟨added, hadded, hanswers⟩ := exec_answers h
  obtain rfl : new = added := List.append_cancel_left (hout.symm.trans hadded)
  obtain ⟨hport, st, d, rfl, hd⟩ := hanswers p w hin
  rw [rspWord_status, rspWord_middle, rspWord_data]
  refine ⟨hport, st.code_toNat_le, rfl, fun hst => ?_⟩
  rw [hd fun hok => hst (Status.code_toNat_eq_zero.2 hok)]
  rfl

end Sys2Proof.Machine

/-! PROOFS of the family of `40_effect_queue.md`: the sample counts (R115, R117), LOAD of one record (R114, R116), the
install of a PLAY (R112), and the balance of release events (R118). -/

namespace Sys2Proof.Machine

open Sys2Proof

/-! ## Sample counts (R115, R117) -/

/-- Rounding half up is the floor the step computes: 1/2 is 500/1000 (R115). -/
theorem floor_div_add_half (n : ℕ) : ⌊(n : ℚ) / 1000 + 1 / 2⌋ = ((n + 500) / 1000 : ℕ) := by
  have hhalf : (n : ℚ) / 1000 + 1 / 2 = ((n + 500 : ℕ) : ℚ) / (1000 : ℕ) := by
    push_cast
    ring
  rw [hhalf, floor_natCast_div]

/-- Settles O37: `SN` fits its register, so it is the floor itself. -/
theorem samplesRequiredRoundsHalfUp : Obligations.SamplesRequiredRoundsHalfUp := by
  intro d r
  obtain ⟨hvalue, hbound⟩ := samplesRequired_toNat d r
  refine ⟨?_, hbound⟩
  rw [hvalue, ← Nat.cast_mul, floor_div_add_half]

/-- Settles O38: `E.steps` intervals of `SPS` samples do not exceed `SN`, so the last one has at least `SPS`. -/
theorem samplesPerStepIsFloor : Obligations.SamplesPerStepIsFloor := by
  intro n steps hsteps q
  have hq : q = n.toNat / steps.toNat := samplesPerStep_toNat n steps
  have hall : steps.toNat * q ≤ n.toNat := hq ▸ Nat.mul_div_le _ _
  have hlast : steps.toNat * q = (steps.toNat - 1) * q + q := by
    rw [← Nat.succ_mul, Nat.succ_eq_add_one, Nat.sub_add_cancel (Nat.one_le_iff_ne_zero.2 hsteps)]
  refine ⟨?_, by omega, by omega, fun hfew => ?_⟩
  · rw [hq, floor_natCast_div]
  · rw [hq, Nat.div_eq_of_lt hfew]

/-- A record has no samples exactly if its exact count is 0: `SN` drops nothing (R36, R116). -/
theorem samplesRequired_eq_zero_iff (d : Word32) (r : BitVec 31) :
    samplesRequired d r = 0#64 ↔ (d.toNat * r.toNat + 500) / 1000 = 0 := by
  rw [BitVec.toNat_eq, (samplesRequired_toNat d r).1]
  rfl

/-- The latched record with its two counts in plain numbers (R114, R115, R117). -/
theorem latched_eq (r : Effect) (s : State) :
    latched r s = { s with
      e := r
      freq := r.freq
      vol := r.vol
      phase := 0#32
      stepIndex := 0#32
      sw := 0#64
      sn := BitVec.ofNat 64 ((r.duration.toNat * s.sampleRate.toNat + 500) / 1000)
      sps := BitVec.ofNat 64 ((r.duration.toNat * s.sampleRate.toNat + 500) / 1000 / r.steps.toNat) } := by
  rw [latched, samplesPerStep, (samplesRequired_toNat _ _).1]
  rfl

/-! ## LOAD of one record (R114, R116) -/

/-- Settles O11: the record at `POS`, run as an instruction, is LOAD. -/
theorem loadRunsRecordAtPos : Obligations.LoadRunsRecordAtPos := by
  intro s ha hp
  rw [← recordAtPos_eq]
  exact (execEffect_recordAtPos ha hp).symm

theorem runRecord_of_samples {r : Effect} {s : State} (hu : recordUsable s r = true)
    (hn : samplesRequired r.duration s.sampleRate ≠ 0#64) : runRecord r s = .ok (latched r s) := by
  rw [runRecord, latch_of_usable hu]
  exact if_neg hn

theorem runRecord_of_no_samples {r : Effect} {s : State} (hu : recordUsable s r = true)
    (hn : samplesRequired r.duration s.sampleRate = 0#64) :
    runRecord r s = load (advancePos (latched r s)) := by
  rw [runRecord, latch_of_usable hu]
  exact if_pos hn

/-- Settles O32: a usable record is latched, or LOAD goes on behind it, to the end of the sequence or to the next
record. -/
theorem effectIsLoaded : Obligations.EffectIsLoaded := by
  intro r s ha hp hsteps htone hfx samples t
  have hu : recordUsable s r = true := (recordUsable_iff s r).2 ⟨hsteps, htone, hfx⟩
  have hexec : exec (.effect r) s = finish (runRecord r s) := execEffect_enabled r ha hp
  have hzero := samplesRequired_eq_zero_iff r.duration s.sampleRate
  have hlatched : latched r s = t := latched_eq r s
  refine ⟨fun hn => ?_, fun hn hend => ?_, fun hn hmore => ?_⟩
  · rw [hexec, runRecord_of_samples hu (hzero.not.2 hn), hlatched]
    rfl
  · have hl : load (advancePos t) = .ok (endSequence (advancePos t)) := load_exhausted hend
    rw [hexec, runRecord_of_no_samples hu (hzero.2 hn), hlatched, hl]
    rfl
  · rw [hexec, runRecord_of_no_samples hu (hzero.2 hn), hlatched]
    exact (execEffect_recordAtPos (s := advancePos t) ha hmore).symm

/-! ## The install of a PLAY (R112) -/

/-- LOAD of the sequence just installed: it ends at the first record `n` with samples, or at the end if there is none;
`k` is the last record it latched (R112, R114, R116). -/
theorem load_installSequence {b : Word32} {l : BitVec 24} {s : State} (h : PlayAcceptable s b l) :
    let count := l.toNat / 64
    let record := fun i : ℕ => s.mem.readRecord (b + BitVec.ofNat 32 (64 * i))
    let samples := fun i : ℕ => samplesRequired (record i).duration s.sampleRate
    ∃ n k, n ≤ count ∧ (∀ i < n, samples i = 0#64) ∧
      (n < count → k = n ∧ samples n ≠ 0#64) ∧ (n = count → k + 1 = count) ∧
      (let t := { latched (record k) (installSequence b l s) with pos := BitVec.ofNat 18 n }
       load (installSequence b l s) = .ok (if n < count then t else endSequence t)) := by
  intro count record samples
  obtain ⟨hne, hmod, -, -, hrecords⟩ := h
  have hinstalled := installSequence_eq b l s
  have hcount : (installSequence b l s).seqCount.toNat = count := recordCount_toNat l
  have hmem : (installSequence b l s).mem = s.mem := by rw [hinstalled]
  have hrate : (installSequence b l s).sampleRate = s.sampleRate := by rw [hinstalled]
  have haccepted : recordsAccepted (installSequence b l s) count b = true := by
    rw [recordsAccepted_installSequence, recordsAccepted_iff]
    exact fun i hi => (recordAccepted_iff s _).2 (hrecords i hi)
  obtain ⟨n, -, hn, hskipped, hloaded, hended⟩ := load_accepted (s := installSequence b l s)
    (Nat.zero_le _) fun i _ hi => (recordsAccepted_iff _ _ _).1 haccepted i (hcount ▸ hi)
  rw [hcount] at hn hloaded hended
  rw [hmem, hrate] at hskipped hloaded
  rw [hmem] at hended
  rcases hn.lt_or_eq with hlt | hend
  · obtain ⟨hsamples, hl⟩ := hloaded hlt
    refine ⟨n, n, hn, fun i hi => hskipped i (Nat.zero_le _) hi, fun _ => ⟨rfl, hsamples⟩, by omega, ?_⟩
    intro t
    rw [if_pos hlt]
    exact hl
  · rcases hended hend with ⟨hempty, -⟩ | ⟨-, hl⟩
    · have hzero : 0 = count := (congrArg BitVec.toNat hempty).trans hcount
      omega
    · refine ⟨n, n - 1, hn, fun i hi => hskipped i (Nat.zero_le _) hi, by omega, by omega, ?_⟩
      intro t
      rw [if_neg hend.not_lt]
      exact hl

/-- A PLAY that passed validation, new or held, installs when the gate is free (R112, R203). -/
theorem execPlay_installs {b : Word32} {l : BitVec 24} {s u : State}
    (hhold : s.ctrlHold = none ∨ s.ctrlHold = some ⟨b, l⟩) (hg : s.gate = .free) (hv : PlayAcceptable s b l)
    (hl : load (installSequence b l s) = .ok u) : execPlay b l s = .next (respond .control .ok 0#32 u) := by
  have hinstall : finish (playInstall b l s) = .next (respond .control .ok 0#32 u) := by
    rw [playInstall, hl]
    rfl
  rw [← hinstall]
  rcases hhold with hnone | hheld
  · simp only [execPlay, hnone, hg, (playValid_iff s b l).2 hv, if_true]
  · simp only [execPlay, hheld, hg, and_self, if_true]

/-- Settles O25: the install, the LOAD of an accepted sequence, the response. -/
theorem playInstallsSequence : Obligations.PlayInstallsSequence := by
  intro b l s hhold hg hv count record samples
  obtain ⟨n, k, hn, hskipped, hloaded, hended, hl⟩ := load_installSequence hv
  have hzero : ∀ i, samplesRequired (record i).duration s.sampleRate = 0#64 ↔ samples i = 0 :=
    fun i => samplesRequired_eq_zero_iff _ _
  refine ⟨n, k, hn, fun i hi => (hzero i).1 (hskipped i hi),
    fun hlt => (hloaded hlt).imp_right (hzero n).not.1, hended, ?_⟩
  refine (execPlay_installs hhold hg hv hl).trans ?_
  rw [latched_eq, installSequence_eq, ← rspWord_ok_zero]
  by_cases hlt : n < count
  · rw [if_pos hlt, if_pos hlt, decide_eq_true hlt, List.append_nil]
    rfl
  · rw [if_neg hlt, if_neg hlt, decide_eq_false hlt]
    rfl

/-! ## The balance of release events (R118) -/

/-- Release events so far and sequences held: one for every sequence ever installed (R118). -/
def releaseBalance (s : State) : ℕ := releaseCount s.out + heldSequences s

theorem releaseCount_append (xs ys : List Output) : releaseCount (xs ++ ys) = releaseCount xs + releaseCount ys := by
  rw [releaseCount, List.filter_append, List.length_append]
  rfl

theorem releaseCount_release (b : Word32) : releaseCount [.release b] = 1 := rfl

/-- Outputs other than release events keep the balance while `ACTIVE` stays. -/
theorem releaseBalance_of_unreleased {s t : State} {new : List Output} (hout : t.out = s.out ++ new)
    (hnew : releaseCount new = 0) (ha : t.active = s.active) : releaseBalance t = releaseBalance s := by
  rw [releaseBalance, hout, releaseCount_append, hnew, heldSequences, ha]
  rfl

theorem respond_releaseBalance (p : Port) (st : Status) (d : Word32) (s : State) :
    releaseBalance (respond p st d s) = releaseBalance s :=
  releaseBalance_of_unreleased rfl rfl rfl

theorem emitted_releaseBalance (U : Units) (s : State) : releaseBalance (emitted U s) = releaseBalance s := by
  rw [emitted_eq]
  exact releaseBalance_of_unreleased rfl rfl rfl

/-- LOAD of an installed sequence keeps it, or gives it up with one release event (R114, R118). -/
theorem load_releaseBalance {s t : State} (h : load s = .ok t) (ha : s.active = true) :
    releaseBalance t = releaseBalance s := by
  rcases load_cases h with hfresh | hended
  · exact releaseBalance_of_unreleased (hfresh.out_eq.trans (List.append_nil _).symm) rfl hfresh.active_eq
  · simp only [releaseBalance, heldSequences, hended.out_eq, hended.active_eq, ha, releaseCount_append,
      releaseCount_release, Bool.toNat_true, Bool.toNat_false, Nat.add_zero]

theorem runRecord_releaseBalance {r : Effect} {s t : State} (h : runRecord r s = .ok t) (ha : s.active = true) :
    releaseBalance t = releaseBalance s := by
  obtain ⟨-, ⟨-, rfl⟩ | ⟨-, hl⟩⟩ := runRecord_cases h
  · rfl
  · exact load_releaseBalance (s := advancePos (latched r s)) hl ha

theorem tick_releaseBalance {U : Units} {s t : State} (h : tick U s = .ok t) (ha : s.active = true) :
    releaseBalance t = releaseBalance s := by
  rw [← emitted_releaseBalance U s]
  rcases tick_cases h with ⟨-, rfl⟩ | ⟨-, hl⟩
  · rfl
  · exact load_releaseBalance (s := advancePos (emitted U s)) hl ((emitted_sameHolding U s).active.trans ha)

theorem execPull_releaseBalance {s t : State} (h : execPull s = .next t) : releaseBalance t = releaseBalance s := by
  rcases execPull_cases h with ⟨-, -, rfl⟩ | ⟨-, -, -, rfl⟩ | ⟨-, hw, ht⟩ | ⟨-, -, rfl⟩
  · exact respond_releaseBalance _ _ _ s
  · rfl
  · exact tick_releaseBalance ht (pullHasWork_iff.1 hw).1
  · exact respond_releaseBalance _ _ _ s

/-- The install releases the superseded sequence, if any, and holds one more (R112). -/
theorem installSequence_releaseBalance (b : Word32) (l : BitVec 24) (s : State) :
    releaseBalance (installSequence b l s) = releaseBalance s + 1 := by
  rw [installSequence_eq]
  cases ha : s.active <;> simp [releaseBalance, heldSequences, ha, releaseCount_append, releaseCount_release]

/-- PLAY adds a sequence when the gate is free and, if it is new, it passes validation (R111, R112, R203). -/
theorem execPlay_releaseBalance {b : Word32} {l : BitVec 24} {s t : State} (h : execPlay b l s = .next t) :
    releaseBalance t = releaseBalance s +
      if s.gate = .free ∧ (s.ctrlHold = none → playValid b l s = true) then 1 else 0 := by
  rcases execPlay_cases h with ⟨hnone, hv, rfl⟩ | ⟨-, -, hg, rfl⟩ | ⟨hv, hg, u, hl, rfl⟩
  · have hinvalid : ¬ (s.gate = .free ∧ (s.ctrlHold = none → playValid b l s = true)) := fun hp =>
      absurd (hv.symm.trans (hp.2 hnone)) nofun
    rw [if_neg hinvalid]
    exact respond_releaseBalance _ _ _ s
  · have hbusy : ¬ (s.gate = .free ∧ (s.ctrlHold = none → playValid b l s = true)) := fun hp =>
      absurd (hg.symm.trans hp.1) nofun
    rw [if_neg hbusy]
    rfl
  · have hinstalls : s.ctrlHold = none → playValid b l s = true := fun hnone =>
      hv.elim And.right fun hheld => absurd (hnone.symm.trans hheld) nofun
    rw [if_pos ⟨hg, hinstalls⟩]
    calc releaseBalance (respond .control .ok 0#32 u)
        = releaseBalance u := respond_releaseBalance _ _ _ u
      _ = releaseBalance (installSequence b l s) := load_releaseBalance hl rfl
      _ = releaseBalance s + 1 := installSequence_releaseBalance b l s

theorem exec_ungated_releaseBalance {i : Instr} {s t : State} (h : exec i s = .next t) (hp : ∀ b l, i ≠ .play b l)
    (hq : i ≠ .pull) (he : ∀ r, i ≠ .effect r) : releaseBalance t = releaseBalance s := by
  obtain ⟨p, st, d, -, -, ht⟩ := exec_ungated_cases hp hq he h
  rw [ht]
  exact releaseBalance_of_unreleased rfl rfl rfl

/-- Settles O55: only the install adds a sequence, and LOAD alone ends one. -/
theorem releasesBalanceInstalls : Obligations.ReleasesBalanceInstalls := by
  intro i s t h
  change releaseBalance t = releaseBalance s + _
  cases i with
  | play b l => exact execPlay_releaseBalance h
  | pull => exact execPull_releaseBalance h
  | effect r =>
    obtain ⟨ha, -, hr⟩ := execEffect_next.1 h
    exact runRecord_releaseBalance hr ha
  | setSampleRate a | setSampleRange a | setBufferSize a | setOrMask a | connect a | getSampleRate | getSampleRange
  | getFormat p => exact exec_ungated_releaseBalance h (fun _ _ => nofun) nofun fun _ => nofun

end Sys2Proof.Machine

/-! PROOFS of the family of `42_tone_effect.md`: MODULATE is the composition of its slots (R143, R144). -/

namespace Sys2Proof.Machine

open Sys2Proof

/-- Settles O31: each slot acts on the pair (`FREQ`, `VOL`) alone, so MODULATE is the three slots composed. -/
theorem modulateComposesInOrder : Obligations.ModulateComposesInOrder := by
  intro U s apply r
  have hslot : ∀ b x, fxResult U b s.stepIndex s.e.steps x = apply b x := fun _ _ => rfl
  have hresult : modulated U s = r := by simp only [modulated, hslot, r]
  rw [modulate_eq, hresult]

end Sys2Proof.Machine

/-! PROOFS of the family of `43_sample_tick.md`: the step schedule (R152, R153, R158), what one TICK does (R150 to R156),
the exact arithmetic (R170 to R175), and rows of ticks inside an effect (R157, R173). -/

namespace Sys2Proof.Machine

open Sys2Proof

/-! ## The step schedule (R152, R153, R158) -/

/-- The step interval of the last of `w` samples, `p` samples to a step and `n` steps (R158). -/
def scheduledStep (w p n : ℕ) : ℕ := if p = 0 then 0 else min ((w - 1) / p) (n - 1)

theorem State.onSchedule_iff (s : State) :
    s.OnSchedule ↔
      (s.active = true → s.stepIndex.toNat = scheduledStep s.sw.toNat s.sps.toNat s.e.steps.toNat) :=
  Iff.rfl

theorem scheduledStep_zero (p n : ℕ) : scheduledStep 0 p n = 0 := by
  simp [scheduledStep]

/-- The schedule moves on exactly where a TICK finds a step boundary (R152, R153). -/
theorem scheduledStep_succ (w p n : ℕ) :
    scheduledStep (w + 1) p n =
      if w ≠ 0 ∧ p ≠ 0 ∧ w % p = 0 ∧ scheduledStep w p n + 1 < n then scheduledStep w p n + 1
      else scheduledStep w p n := by
  rcases Nat.eq_zero_or_pos p with rfl | hp
  · simp [scheduledStep]
  cases w with
  | zero => simp [scheduledStep]
  | succ w =>
    have hdiv : (w + 1) / p = w / p + if (w + 1) % p = 0 then 1 else 0 := by
      simp only [Nat.succ_div, Nat.dvd_iff_mod_eq_zero]
    simp only [scheduledStep, hp.ne', if_false, Nat.add_sub_cancel, hdiv]
    generalize w / p = q
    by_cases hmul : (w + 1) % p = 0
    · simp only [hmul, if_true, true_and]
      split_ifs <;> omega
    · simp only [hmul, if_false, false_and, and_false, Nat.add_zero]

/-- A TICK inside an effect stays on schedule (R152). -/
theorem State.OnSchedule.emitted_onSchedule {s : State} (h : s.OnSchedule) (hs : s.Inv) (U : Units) :
    (emitted U s).OnSchedule := by
  rw [State.onSchedule_iff] at h ⊢
  rw [emitted_eq]
  intro ha
  have hsw : (s.sw + 1#64).toNat = s.sw.toNat + 1 := by
    have := hs.sw_lt ha
    bv_omega
  show (tickSchedule U s).stepIndex.toNat = scheduledStep (s.sw + 1#64).toNat s.sps.toNat s.e.steps.toNat
  rw [hsw, scheduledStep_succ, ← h ha, tickSchedule_stepIndex]
  by_cases hb : atStepBoundary s = true
  · have hboundary := (atStepBoundary_iff s).1 hb
    rw [if_pos hb, if_pos hboundary]
    obtain ⟨-, -, -, hlast⟩ := hboundary
    bv_omega
  · rw [if_neg hb, if_neg ((atStepBoundary_iff s).not.1 hb)]

/-- LOAD leaves a fresh effect at its first step, or none (R114). -/
theorem load_onSchedule {s t : State} (h : load s = .ok t) : t.OnSchedule := by
  rw [State.onSchedule_iff]
  intro ha
  rcases load_cases h with hfresh | hended
  · rw [hfresh.step_eq, hfresh.sw_eq]
    exact (scheduledStep_zero _ _).symm
  · exact absurd (ha.symm.trans hended.active_eq) nofun

theorem State.OnSchedule.execPull_onSchedule {s t : State} (h : s.OnSchedule) (hs : s.Inv)
    (hx : execPull s = .next t) : t.OnSchedule := by
  rcases execPull_cases hx with ⟨-, -, rfl⟩ | ⟨-, -, -, rfl⟩ | ⟨-, -, ht⟩ | ⟨-, -, rfl⟩
  · exact h
  · exact h
  · rcases tick_cases ht with ⟨-, rfl⟩ | ⟨-, hl⟩
    · exact h.emitted_onSchedule hs _
    · exact load_onSchedule hl
  · exact h

theorem State.OnSchedule.execPlay_onSchedule {s t : State} {b : Word32} {l : BitVec 24} (h : s.OnSchedule)
    (hx : execPlay b l s = .next t) : t.OnSchedule := by
  rcases execPlay_cases hx with ⟨-, -, rfl⟩ | ⟨-, -, -, rfl⟩ | ⟨-, -, u, hl, rfl⟩
  · exact h
  · exact h
  · have hu := load_onSchedule hl
    exact hu

/-- Every instruction keeps the schedule: only TICK and LOAD write what it speaks of. -/
theorem State.OnSchedule.exec_onSchedule {i : Instr} {s t : State} (h : s.OnSchedule) (hs : s.Inv)
    (hx : exec i s = .next t) : t.OnSchedule := by
  by_cases hplay : ∃ b l, i = .play b l
  · obtain ⟨b, l, rfl⟩ := hplay
    exact h.execPlay_onSchedule hx
  by_cases hpull : i = .pull
  · subst hpull
    exact h.execPull_onSchedule hs hx
  by_cases heffect : ∃ r, i = .effect r
  · obtain ⟨r, rfl⟩ := heffect
    obtain ⟨-, -, hr⟩ := execEffect_next.1 hx
    obtain ⟨-, ⟨-, rfl⟩ | ⟨-, hl⟩⟩ := runRecord_cases hr
    · exact fun _ => (scheduledStep_zero _ _).symm
    · exact load_onSchedule hl
  · obtain ⟨p, st, d, -, -, ht⟩ :=
      exec_ungated_cases (fun b l hi => hplay ⟨b, l, hi⟩) hpull (fun r hi => heffect ⟨r, hi⟩) hx
    rw [ht]
    exact h

/-- The schedule does not speak of the inputs to come. -/
theorem State.OnSchedule.took_onSchedule {s u : State} (h : s.OnSchedule) (hu : Took s u) : u.OnSchedule := by
  rcases hu with rfl | ⟨x, rest, -, rfl⟩
  · exact h
  · exact h

/-- Settles O54, case by case over the ways a step can end. -/
theorem stepIndexFollowsSchedule : Obligations.StepIndexFollowsSchedule := by
  intro s t hs h hstep
  rcases step_eq_cases s with ⟨u, hu, he⟩ | ⟨a, bytes, rest, -, he⟩ | ⟨rest, -, he⟩ | ⟨p, u, hu, he⟩ |
      ⟨u, hu, -, he⟩ | ⟨u, x, hu, -, -, he⟩ | ⟨u, p, w, i, hu, -, -, he⟩
  · -- the block keeps its state
    cases he.symm.trans hstep
    exact h.took_onSchedule hu
  · -- a host write
    cases he.symm.trans hstep
    exact h
  · -- reset, which leaves no effect active
    cases he.symm.trans hstep
    exact nofun
  · -- an illegal word
    have hkept := h.took_onSchedule hu
    cases he.symm.trans hstep
    exact hkept
  · -- the PULL in progress
    exact (h.took_onSchedule hu).exec_onSchedule (hs.took_inv hu) (he.symm.trans hstep)
  · -- the held PLAY
    exact (h.took_onSchedule hu).exec_onSchedule (hs.took_inv hu) (he.symm.trans hstep)
  · -- an accepted word
    exact (h.took_onSchedule hu).exec_onSchedule (hs.took_inv hu) (he.symm.trans hstep)

/-! ## One TICK (R150 to R156) -/

/-- Step scheduling with its conditions in plain numbers (R152). -/
theorem tickSchedule_eq_ite (U : Units) (s : State) :
    let boundary := s.sw.toNat ≠ 0 ∧ s.sps.toNat ≠ 0 ∧ s.sw.toNat % s.sps.toNat = 0 ∧
      s.stepIndex.toNat + 1 < s.e.steps.toNat
    let s1 := if boundary then enterStep s else s
    tickSchedule U s = if boundary ∨ s.sw.toNat = 0 then modulate U s1 else s1 := by
  intro boundary s1
  unfold tickSchedule
  by_cases hb : atStepBoundary s = true
  · have hboundary : boundary := (atStepBoundary_iff s).1 hb
    rw [if_pos hb, if_pos (.inl hboundary)]
    simp only [s1, if_pos hboundary]
  · have hboundary : ¬ boundary := (atStepBoundary_iff s).not.1 hb
    simp only [s1, if_neg hb, if_neg hboundary, atEffectStart_iff, hboundary, false_or]

/-- The state after a TICK's sample, in the terms of R152 to R156. -/
theorem emitted_units_eq (s : State) :
    let boundary := s.sw.toNat ≠ 0 ∧ s.sps.toNat ≠ 0 ∧ s.sw.toNat % s.sps.toNat = 0 ∧
      s.stepIndex.toNat + 1 < s.e.steps.toNat
    let s1 := if boundary then { s with stepIndex := s.stepIndex + 1#32 } else s
    let m := if boundary ∨ s.sw.toNat = 0 then modulate Config.units s1 else s1
    emitted Config.units s = { s with
      stepIndex := s1.stepIndex
      freq := m.freq
      vol := m.vol
      phase := s.phase + ftw m.freq s.sampleRate
      sw := s.sw + 1#64
      pullCount := s.pullCount + 1#31
      out := s.out ++ [.sample
        (scale (Config.tonePrint s.e.tpSel s.e.tpParam (s.phase.extractLsb' 22 10)) m.vol s.sampleRange
          ||| s.orMask)] } := by
  intro boundary s1 m
  have hm : tickSchedule Config.units s = m := tickSchedule_eq_ite Config.units s
  have hstep : m.stepIndex = s1.stepIndex := by
    simp only [m]
    split
    · exact modulate_stepIndex s1 Config.units
    · rfl
  rw [emitted_eq]
  simp only [sampleWord, tickSchedule_e, tickSchedule_phase, tickSchedule_sampleRange, tickSchedule_orMask]
  rw [hm, hstep]
  rfl

/-- While a PULL in progress has work, its next step is a TICK (R183). -/
theorem exec_pull_tick {s : State} (hg : s.gate = .render) (ha : s.active = true)
    (hcount : s.pullCount.toNat < s.pullLimit.toNat) : exec .pull s = finish (tick Config.units s) := by
  simp only [exec, execPull, pullStep, hg, pullHasWork_iff.2 ⟨ha, hcount⟩, if_true]

/-- Settles O29: a TICK in the middle of an effect is its sample and nothing else. -/
theorem tickWithinEffect : Obligations.TickWithinEffect := by
  intro s hg ha hcount hmore boundary s1 m
  rw [exec_pull_tick hg ha hcount, tick_within hmore, emitted_units_eq]
  rfl

/-- Settles O30: after the sample NEXT ends the sequence, or loads the record at the next position. -/
theorem tickCompletesEffect : Obligations.TickCompletesEffect := by
  intro s hg ha hcount hlast boundary s1 m t
  have ht : advancePos (emitted Config.units s) = t := by
    rw [emitted_units_eq, hlast]
    rfl
  have hexec : exec .pull s = finish (load t) := by
    rw [exec_pull_tick hg ha hcount, tick_completes hlast, ht]
  refine ⟨fun hend => ?_, fun hmore => ?_⟩
  · have hl : load t = .ok (endSequence t) := load_exhausted hend
    rw [hexec, hl]
    rfl
  · exact hexec.trans (execEffect_recordAtPos (s := t) ha hmore).symm

/-! ## Reading an `f32` pattern (R170) -/

/-- The sign as the factor of R170. -/
theorem f32Sign_factor (b : Word32) :
    (if f32Sign b then -1 else 1 : ℚ) = if b.toNat / 2 ^ 31 = 1 then -1 else 1 := by
  simp only [f32Sign_iff]

/-- A pattern with the largest exponent is NaN or an infinity (R170). -/
theorem classify_of_exp_max {b : Word32} (h : f32Exp b = 255) :
    classify b = if f32Frac b ≠ 0 then .nan else if f32Sign b then .negInf else .posInf := by
  rw [classify, if_pos h]

/-- A zero or a subnormal (R170). -/
theorem classify_of_exp_zero {b : Word32} (h : f32Exp b = 0) : classify b = .finite (f32Sign b) (f32Frac b) := by
  rw [classify, if_neg (by omega), if_pos h]

/-- A normal number (R170). -/
theorem classify_of_normal {b : Word32} (hlo : 1 ≤ f32Exp b) (hhi : f32Exp b ≤ 254) :
    classify b = .finite (f32Sign b) ((2 ^ 23 + f32Frac b) * 2 ^ (f32Exp b - 1)) := by
  rw [classify, if_neg (by omega), if_neg (by omega)]

/-- The power of two of a normal number, in units of 2^-149 (R170). -/
theorem two_zpow_sub_150 {ex : ℕ} (h : 1 ≤ ex) : (2 : ℚ) ^ ((ex : ℤ) - 150) = 2 ^ (ex - 1) / 2 ^ 149 := by
  have hex : (ex : ℤ) - 150 = ((ex - 1 : ℕ) : ℤ) - (149 : ℕ) := by omega
  rw [hex, zpow_sub₀ two_ne_zero, zpow_natCast, zpow_natCast]

/-- Settles O34: one branch of `classify` for each range of the exponent. -/
theorem fvalReadsBinary32 : Obligations.FvalReadsBinary32 := by
  intro b
  rw [← f32Exp_eq, ← f32Frac_eq, ← f32Sign_factor]
  intro sg ex m
  refine ⟨fun hmax hne => ?_, fun hmax hzero => ?_, fun hzero => ?_, fun hlo hhi => ?_⟩
  · rw [classify_of_exp_max hmax, if_pos hne]
  · rw [classify_of_exp_max hmax, if_neg (not_not.2 hzero)]
    simp only [f32Sign_iff]
  · rw [fval_of_finite (classify_of_exp_zero hzero), zpow_neg, div_eq_mul_inv]
    rfl
  · rw [fval_of_finite (classify_of_normal hlo hhi), two_zpow_sub_150 hlo, Nat.cast_mul, Nat.cast_add,
      Nat.cast_pow, Nat.cast_pow, mul_div_assoc, mul_div_assoc, mul_assoc]
    rfl

/-- Only a positive finite pattern has a positive value. -/
theorem classify_of_fval_pos {b : Word32} (h : 0 < fval b) :
    ∃ mag : ℕ, classify b = .finite false mag ∧ fval b = mag / 2 ^ 149 := by
  cases hc : classify b with
  | finite neg mag =>
    have hv := fval_of_finite hc
    cases neg with
    | false => exact ⟨mag, rfl, by simpa using hv⟩
    | true =>
      have hneg : fval b ≤ 0 := by
        rw [hv, if_pos rfl, neg_one_mul, neg_div, neg_nonpos]
        positivity
      exact absurd h hneg.not_gt
  | nan | posInf | negInf =>
    rw [fval, hc] at h
    exact absurd h (lt_irrefl 0)

/-- A finite pattern that is not positive is negative or a zero. -/
theorem classify_of_fval_nonpos {b : Word32} (hfin : f32Exp b ≠ 255) (h : fval b ≤ 0) :
    (∃ mag, classify b = .finite true mag) ∨ classify b = .finite false 0 := by
  obtain ⟨neg, mag, hc⟩ := classify_finite hfin
  cases neg with
  | true => exact .inl ⟨mag, hc⟩
  | false =>
    have hmag : (mag : ℚ) / 2 ^ 149 ≤ 0 := by simpa [fval_of_finite hc] using h
    rw [div_le_iff₀ (by positivity), zero_mul, Nat.cast_nonpos] at hmag
    exact .inr (hmag ▸ hc)

/-! ## The frequency tuning word (R172) -/

theorem ftw_of_not_finite {fb : Word32} (h : f32Exp fb = 255) (r : BitVec 31) : ftw fb r = 0#32 := by
  rcases classify_not_finite h with hc | hc | hc <;> rw [ftw, hc]

theorem ftw_of_fval_nonpos {fb : Word32} (hfin : f32Exp fb ≠ 255) (h : fval fb ≤ 0) (r : BitVec 31) :
    ftw fb r = 0#32 := by
  rcases classify_of_fval_nonpos hfin h with ⟨mag, hc⟩ | hc
  · rw [ftw, hc]
  · rw [ftw, hc]
    simp only [Nat.zero_mul, Nat.zero_div]

/-- The tuning word of a positive frequency is the exact floor, cut to 32 bits (R172). -/
theorem ftw_of_fval_pos {fb : Word32} (h : 0 < fval fb) (r : BitVec 31) :
    ftw fb r = BitVec.ofNat 32 ⌊fval fb * 2 ^ 32 / (r.toNat : ℚ)⌋₊ := by
  obtain ⟨mag, hc, hv⟩ := classify_of_fval_pos h
  have hquotient : fval fb * 2 ^ 32 / (r.toNat : ℚ) = ((mag * 2 ^ 32 : ℕ) : ℚ) / ((2 ^ 149 * r.toNat : ℕ) : ℚ) := by
    rw [hv, div_mul_eq_mul_div, div_div]
    simp only [Nat.cast_mul, Nat.cast_pow, Nat.cast_ofNat]
  rw [hquotient, Nat.floor_div_eq_div, ftw, hc]

/-- Settles O35, from the three readings of the tuning word. -/
theorem tuningWordIsExactFloor : Obligations.TuningWordIsExactFloor := by
  intro fb r _
  rw [← f32Exp_eq]
  refine ⟨fun h => ftw_of_not_finite h r, fun hfin h => ftw_of_fval_nonpos hfin h r, fun _ h => ?_⟩
  have hnonneg : 0 ≤ fval fb * 2 ^ 32 / (r.toNat : ℚ) := by positivity
  rw [ftw_of_fval_pos h, BitVec.toNat_ofNat, Int.natCast_mod, Int.natCast_floor_eq_floor hnonneg]
  rfl

/-! ## Amplitude scaling (R174) -/

/-- Clipping to the range never overflows the 16 bits of a sample. -/
theorem ofNat_min_toNat (g : BitVec 16) (n : ℕ) : (BitVec.ofNat 16 (min g.toNat n)).toNat = min g.toNat n := by
  rw [BitVec.toNat_ofNat]
  exact Nat.mod_eq_of_lt ((min_le_left _ _).trans_lt g.isLt)

/-- A sample never exceeds `SAMPLE_RANGE` (R174). -/
theorem scale_le (raw : BitVec 16) (vb : Word32) (g : BitVec 16) : (scale raw vb g).toNat ≤ g.toNat := by
  unfold scale
  split
  · exact Nat.zero_le _
  · exact Nat.zero_le _
  · split
    · exact Nat.zero_le _
    · exact le_rfl
  · exact Nat.zero_le _
  · rw [ofNat_min_toNat]
    exact min_le_left _ _

theorem scale_of_fval_nonpos {vb : Word32} (hfin : f32Exp vb ≠ 255) (h : fval vb ≤ 0) (raw g : BitVec 16) :
    scale raw vb g = 0#16 := by
  rcases classify_of_fval_nonpos hfin h with ⟨mag, hc⟩ | hc
  · rw [scale, hc]
  · rw [scale, hc]
    simp only [Nat.mul_zero, Nat.zero_mul, Nat.zero_div, Nat.min_zero]

/-- The scaled sample of a positive volume is the exact floor, clipped (R174). -/
theorem scale_of_fval_pos {vb : Word32} (h : 0 < fval vb) (raw g : BitVec 16) :
    ((scale raw vb g).toNat : ℤ) = min (g.toNat : ℤ) ⌊(raw.toNat : ℚ) * fval vb * (g.toNat : ℚ) / 1023⌋ := by
  obtain ⟨mag, hc, hv⟩ := classify_of_fval_pos h
  have hquotient : (raw.toNat : ℚ) * fval vb * (g.toNat : ℚ) / 1023 =
      ((raw.toNat * mag * g.toNat : ℕ) : ℚ) / ((2 ^ 149 * Config.toneMax : ℕ) : ℚ) := by
    rw [hv, Config.toneMax]
    push_cast
    ring
  rw [hquotient, floor_natCast_div, scale, hc]
  simp only [ofNat_min_toNat, Nat.cast_min]

/-- Settles O36: one reading of `scale` for each kind of pattern, and its bound. -/
theorem scaleIsClippedFloor : Obligations.ScaleIsClippedFloor := by
  intro raw vb g
  rw [← f32Exp_eq, ← f32Frac_eq]
  refine ⟨fun hmax hne => ?_, ?_, ?_, fun hfin h => scale_of_fval_nonpos hfin h raw g,
    fun _ h => scale_of_fval_pos h raw g, scale_le raw vb g⟩
  · rw [scale, classify_of_exp_max hmax, if_pos hne]
  · rintro rfl
    have hneg : classify 0xFF800000#32 = .negInf := by decide
    rw [scale, hneg]
  · rintro rfl
    have hpos : classify 0x7F800000#32 = .posInf := by decide
    rw [scale, hpos]
    by_cases hraw : raw = 0#16
    · subst hraw
      rfl
    · have hlt : 0 < raw.toNat := by bv_omega
      simp only [if_neg hraw, if_pos hlt]

/-! ## The sample of a TICK (R154, R175) -/

theorem sampleCount_append (xs ys : List Output) : sampleCount (xs ++ ys) = sampleCount xs + sampleCount ys := by
  rw [sampleCount, List.filter_append, List.length_append]
  rfl

theorem sampleCount_sample (w : BitVec 16) : sampleCount [.sample w] = 1 := rfl

/-- LOAD emits no sample (R114). -/
theorem load_out_sampleless {s t : State} (h : load s = .ok t) :
    ∃ more, t.out = s.out ++ more ∧ sampleCount more = 0 := by
  rcases load_out h with hout | hout
  · exact ⟨[], by rw [hout, List.append_nil], rfl⟩
  · exact ⟨_, hout, rfl⟩

/-- A TICK adds its sample to the history, and after it no other one (R154). -/
theorem tick_out {U : Units} {s t : State} (h : tick U s = .ok t) :
    ∃ more, t.out = s.out ++ .sample (sampleWord U (tickSchedule U s)) :: more ∧ sampleCount more = 0 := by
  have hout : (emitted U s).out = s.out ++ [.sample (sampleWord U (tickSchedule U s))] := by rw [emitted_eq]
  rcases tick_cases h with ⟨-, rfl⟩ | ⟨-, hl⟩
  · exact ⟨[], hout, rfl⟩
  · obtain ⟨more, hmore, hnone⟩ := load_out_sampleless hl
    exact ⟨more, by rw [hmore, advancePos_out, hout, List.append_assoc, List.singleton_append], hnone⟩

/-- Settles O40: the sample word is a scaled value, so it is within the range before the mask is added. -/
theorem emittedSampleIsClippedAndMasked : Obligations.EmittedSampleIsClippedAndMasked := by
  intro s t hg ha hcount hx
  rw [exec_pull_tick hg ha hcount, finish_next] at hx
  obtain ⟨more, hout, hnone⟩ := tick_out hx
  rw [sampleWord, tickSchedule_sampleRange, tickSchedule_orMask] at hout
  exact ⟨_, scale_le _ _ _, more, hout, hnone⟩

/-! ## Rows of ticks inside an effect (R157) -/

/-- From the first state to the second the same effect went on by `m` samples (R156, R157). -/
structure SamplesOn (m : ℕ) (s t : State) : Prop where
  active : t.active = s.active
  count : t.seqCount = s.seqCount
  pos : t.pos = s.pos
  latch : t.e = s.e
  rate : t.sampleRate = s.sampleRate
  total : t.sn = s.sn
  counted : t.sw = s.sw + BitVec.ofNat 64 m
  samples : sampleCount t.out = sampleCount s.out + m

theorem emitted_samplesOn {m : ℕ} (U : Units) {s t : State} (h : SamplesOn m s t) :
    SamplesOn (m + 1) s (emitted U t) := by
  rw [emitted_eq]
  exact
    { h with
      counted := by
        show t.sw + 1#64 = _
        rw [h.counted, BitVec.add_assoc, ← BitVec.ofNat_add]
      samples := by
        show sampleCount (t.out ++ [_]) = _
        rw [sampleCount_append, sampleCount_sample, h.samples, Nat.add_assoc] }

theorem iterate_emitted_samplesOn (U : Units) (s : State) (m : ℕ) : SamplesOn m s ((emitted U)^[m] s) := by
  induction m with
  | zero => exact ⟨rfl, rfl, rfl, rfl, rfl, rfl, (BitVec.add_zero _).symm, rfl⟩
  | succ m ih =>
    rw [Function.iterate_succ_apply']
    exact emitted_samplesOn U ih

/-- `SW` counts the samples without a wrap, as far as the effect goes (R35). -/
theorem SamplesOn.sw_toNat {m : ℕ} {s t : State} (h : SamplesOn m s t) (hm : s.sw.toNat + m ≤ s.sn.toNat) :
    t.sw.toNat = s.sw.toNat + m := by
  have hsn := s.sn.isLt
  rw [h.counted, BitVec.toNat_add, BitVec.toNat_ofNat]
  omega

/-- Fewer ticks than an effect has samples left stay inside it (R156). -/
theorem pullTicks_within (U : Units) {s : State} (ha : s.active = true) {m : ℕ}
    (hm : s.sw.toNat + m < s.sn.toNat) : pullTicks U m s = .ok ((emitted U)^[m] s) := by
  induction m with
  | zero => rfl
  | succ m ih =>
    have hon := iterate_emitted_samplesOn U s m
    have hsw := hon.sw_toNat (by omega)
    rw [pullTicks_succ (ih (by omega)) (hon.active.trans ha), Function.iterate_succ_apply']
    refine tick_within fun hlast => ?_
    rw [hon.total] at hlast
    bv_omega

/-- The tick that emits the last sample goes on with NEXT (R156). -/
theorem pullTicks_completes (U : Units) {s : State} (ha : s.active = true) {m : ℕ}
    (hm : s.sw.toNat + (m + 1) = s.sn.toNat) :
    pullTicks U (m + 1) s = nextEffect ((emitted U)^[m + 1] s) := by
  have hon := iterate_emitted_samplesOn U s m
  have hsw := hon.sw_toNat (by omega)
  have hlast : ((emitted U)^[m] s).sw + 1#64 = ((emitted U)^[m] s).sn := by
    rw [hon.total]
    bv_omega
  rw [pullTicks_succ (pullTicks_within U ha (by omega)) (hon.active.trans ha), tick_completes hlast,
    Function.iterate_succ_apply']
  rfl

/-- NEXT leaves the position behind and emits no sample (R113, R114). -/
theorem nextEffect_moves_on {v t : State} (h : nextEffect v = .ok t) (hp : v.pos.toNat < v.seqCount.toNat) :
    v.pos.toNat < t.pos.toNat ∧ sampleCount t.out = sampleCount v.out := by
  have hadv := advancePos_pos_toNat hp
  have hpos := (load_pos_le h (by rw [hadv]; exact hp)).1
  obtain ⟨more, hout, hnone⟩ := load_out_sampleless h
  rw [hadv] at hpos
  rw [hout, sampleCount_append, hnone]
  exact ⟨hpos, rfl⟩

/-- Settles O59: the ticks before the last one stay inside the effect, and the last one runs NEXT. -/
theorem sampleCountLaw : Obligations.SampleCountLaw := by
  intro U s hs ha left
  have hlt := hs.sw_lt ha
  obtain ⟨m, hleft⟩ : ∃ m, left = m + 1 := Nat.exists_eq_succ_of_ne_zero (by omega)
  have hlast : pullTicks U left s = nextEffect ((emitted U)^[left] s) := by
    rw [hleft]
    exact pullTicks_completes U ha (by omega)
  have hon := iterate_emitted_samplesOn U s left
  refine ⟨fun k hk => ?_, ?_, fun t ht => ?_⟩
  · have hin := iterate_emitted_samplesOn U s k
    exact ⟨_, pullTicks_within U ha (by omega), hin.active.trans ha, hin.pos, hin.latch, hin.total,
      hin.sw_toNat (by omega), hin.samples⟩
  · refine ⟨_, hlast, hon.active.trans ha, hon.pos, hon.latch, hon.total, ?_, hon.samples⟩
    have hsw := hon.sw_toNat (by omega)
    apply BitVec.eq_of_toNat_eq
    omega
  · have hp : ((emitted U)^[left] s).pos.toNat < ((emitted U)^[left] s).seqCount.toNat := by
      rw [hon.pos, hon.count]
      exact hs.pos_lt ha
    obtain ⟨hpos, hsamples⟩ := nextEffect_moves_on (hlast.symm.trans ht) hp
    rw [hon.pos] at hpos
    exact ⟨hpos, hsamples.trans hon.samples⟩

/-! ## The phase over a row of ticks (R155, R173) -/

/-- The effect binds no tone effect (R143). -/
def PlainEffect (e : Effect) : Prop := e.fx0.sel = 0#32 ∧ e.fx1.sel = 0#32 ∧ e.fx2.sel = 0#32

theorem modulate_freq_of_plain (U : Units) {s : State} (h : PlainEffect s.e) : (modulate U s).freq = s.freq := by
  obtain ⟨h0, h1, h2⟩ := h
  simp only [modulate_eq, modulated, fxResult, h0, h1, h2, if_true]

theorem tickSchedule_freq_of_plain (U : Units) {s : State} (h : PlainEffect s.e) : (tickSchedule U s).freq = s.freq := by
  unfold tickSchedule
  split
  · exact modulate_freq_of_plain U (s := enterStep s) h
  · split
    · exact modulate_freq_of_plain U h
    · rfl

/-- Without tone effects each TICK adds the same tuning word to the phase (R155). -/
theorem iterate_emitted_phase (U : Units) {s : State} (h : PlainEffect s.e) (k : ℕ) :
    ((emitted U)^[k] s).freq = s.freq ∧
      ((emitted U)^[k] s).phase = s.phase + BitVec.ofNat 32 (k * (ftw s.freq s.sampleRate).toNat) := by
  induction k with
  | zero => simp
  | succ k ih =>
    obtain ⟨hfreq, hphase⟩ := ih
    have hon := iterate_emitted_samplesOn U s k
    have hplain : PlainEffect ((emitted U)^[k] s).e := hon.latch ▸ h
    have hkeep := (tickSchedule_freq_of_plain U hplain).trans hfreq
    rw [Function.iterate_succ_apply', emitted_eq]
    refine ⟨hkeep, ?_⟩
    show ((emitted U)^[k] s).phase + ftw (tickSchedule U ((emitted U)^[k] s)).freq ((emitted U)^[k] s).sampleRate = _
    rw [hkeep, hon.rate, hphase, BitVec.add_assoc, Nat.succ_mul, BitVec.ofNat_add, BitVec.ofNat_toNat,
      BitVec.setWidth_eq]

/-- Settles O39: each tick adds the floor of the ideal step, so `k` ticks lose less than `k`. -/
theorem phaseTrailsIdealByLessThanTicks : Obligations.PhaseTrailsIdealByLessThanTicks := by
  intro U s k hs ha h0 h1 h2 hk _ hfreq
  set ideal : ℚ := fval s.freq * 2 ^ 32 / (s.sampleRate.toNat : ℚ) with hideal
  have hnonneg : 0 ≤ ideal := by positivity
  have hftw : ftw s.freq s.sampleRate = BitVec.ofNat 32 ⌊ideal⌋₊ := ftw_of_fval_pos hfreq _
  refine ⟨_, k * ⌊ideal⌋₊, pullTicks_within U ha (by omega), ?_, ?_, fun hk1 => ?_⟩
  · rw [(iterate_emitted_phase U ⟨h0, h1, h2⟩ k).2, hftw, BitVec.toNat_add, BitVec.toNat_ofNat, BitVec.toNat_ofNat,
      Nat.add_mod_mod, Nat.add_mod, Nat.mul_mod_mod, ← Nat.add_mod]
  · rw [Nat.cast_mul]
    exact mul_le_mul_of_nonneg_left (Nat.floor_le hnonneg) (Nat.cast_nonneg k)
  · have hkpos : (0 : ℚ) < k := Nat.cast_pos.2 hk1
    calc (k : ℚ) * ideal < k * (⌊ideal⌋₊ + 1) := mul_lt_mul_of_pos_left (Nat.lt_floor_add_one ideal) hkpos
      _ = (k * ⌊ideal⌋₊ : ℕ) + k := by push_cast; ring

end Sys2Proof.Machine

/-! PROOFS of the family of `44_buffer_producer.md`: CONNECT and GET_FORMAT (R187, R188), the steps of a PULL (R181,
R182, R184), and that an undisturbed PULL is the one function of R185. -/

namespace Sys2Proof.Machine

open Sys2Proof

/-! ## CONNECT and GET_FORMAT (R187, R188) -/

/-- Settles O21: the control port takes the word, and the response `OK` has `DATA` = 0. -/
theorem connectResult : Obligations.ConnectResult := by
  intro a s hfree
  rw [← rspWord_ok_zero]
  exact whenControlFree_next.2 ⟨hfree, rfl⟩

/-- The response of GET_FORMAT carries `FORMAT` = 3 (R25, R188). -/
theorem rspWord_format (s : State) : rspWord .ok (zext32 s.format) = 3#64 :=
  rspWord_ok_zext32 s.format (by decide)

/-- Settles O22, port by port: each has its own condition for taking the word. -/
theorem getFormatResult : Obligations.GetFormatResult := by
  intro p s hcontrol hstream
  rw [← rspWord_format s]
  cases p with
  | control => exact whenControlFree_next.2 ⟨hcontrol rfl, rfl⟩
  | stream => exact whenStreamFree_next.2 ⟨hstream rfl, rfl⟩

/-! ## The steps of a PULL (R181, R182, R184) -/

theorem exec_pull_idle {s : State} (hg : s.gate = .free) (ha : s.active = false) :
    exec .pull s = .next (respond .stream .ok 0#32 s) := by
  simp [exec, execPull, pullStep, hg, ha]

theorem exec_pull_begin {s : State} (hg : s.gate = .free) (ha : s.active = true) (hh : s.ctrlHold = none) :
    exec .pull s = .next (pullBegin s) := by
  simp [exec, execPull, pullStep, hg, ha, hh]

/-- No TICK follows once the burst is full or the sequence over (R183, R184). -/
theorem pullHasWork_eq_false {s : State} (h : s.pullCount = s.pullLimit ∨ s.active = false) :
    pullHasWork s = false := by
  rw [Bool.eq_false_iff, Ne, pullHasWork_iff]
  rintro ⟨ha, hcount⟩
  rcases h with hfull | hover
  · exact hcount.ne (congrArg BitVec.toNat hfull)
  · exact absurd (ha.symm.trans hover) nofun

theorem exec_pull_end {s : State} (hg : s.gate = .render) (h : s.pullCount = s.pullLimit ∨ s.active = false) :
    exec .pull s = .next (pullEnd s) := by
  simp [exec, execPull, pullStep, hg, pullHasWork_eq_false h]

/-- Settles O26, from the idle form of PULL. -/
theorem idlePullAnswersEmptyBurst : Obligations.IdlePullAnswersEmptyBurst := by
  intro s hg ha
  rw [exec_pull_idle hg ha, respond, rspWord_ok_zero]

/-- Settles O27: the begin is all that PULL does when it takes the gate. -/
theorem pullBeginTakesGate : Obligations.PullBeginTakesGate :=
  fun _ hg ha hh => exec_pull_begin hg ha hh

/-- Settles O28: without work left, PULL ends, and `PULL_COUNT` fits `DATA`. -/
theorem pullEndFreesGate : Obligations.PullEndFreesGate := by
  intro s hg h
  rw [exec_pull_end hg h, ← rspWord_ok_zext32 s.pullCount (by decide)]
  rfl

/-! ## PULL as one function (R185) -/

/-- With no input the block goes on with the PULL in progress (R209, R210). -/
theorem step_pull_in_progress {s : State} (hg : s.gate = .render) (hi : s.inputs = []) : step s = exec .pull s := by
  simp only [step, nextStep, hi, blockStep, hg]

/-- The word of PULL is taken while the gate is free and no PLAY is held (R206, R209). -/
theorem step_pull_word {s : State} (hg : s.gate = .free) (hh : s.ctrlHold = none)
    (hi : s.inputs = [.command .stream 0x0A00000000000000#64]) : step s = exec .pull { s with inputs := [] } := by
  have haccept : portAccepts s .stream 0x0A00000000000000#64 = true := by simp [portAccepts, hg, hh]
  simp only [step, nextStep, hi, haccept, if_true]
  exact issueWord_of_ok (by decide) _

/-- What the loop of R185 gives from a begun PULL on, with at most `n` ticks still to come. -/
def pullRemainder (n : ℕ) (s : State) : Host.Outcome State Fault Refusal :=
  finish ((pullTicks Config.units n s).map pullEnd)

theorem pullRemainder_of_over {n : ℕ} {s : State} (h : n = 0 ∨ s.active = false) :
    pullRemainder n s = .next (pullEnd s) := by
  cases n with
  | zero => rfl
  | succ n =>
    have ha : s.active = false := h.resolve_left n.succ_ne_zero
    simp [pullRemainder, pullTicks, ha, Except.map, finish]

theorem pullRemainder_of_tick {n : ℕ} {s t : State} (ha : s.active = true) (ht : tick Config.units s = .ok t) :
    pullRemainder (n + 1) s = pullRemainder n t := by
  simp only [pullRemainder, pullTicks, ha, ht, if_true]

theorem pullRemainder_of_fault {n : ℕ} {s : State} {f : Fault} (ha : s.active = true)
    (hf : tick Config.units s = .error f) : pullRemainder (n + 1) s = .fault f := by
  simp [pullRemainder, pullTicks, ha, hf, Except.map, finish]

theorem pullAtOnce_idle {s : State} (ha : s.active = false) : pullAtOnce s = .next (respond .stream .ok 0#32 s) := by
  simp [pullAtOnce, ha]

theorem pullAtOnce_active {s : State} (ha : s.active = true) :
    pullAtOnce s = pullRemainder s.bufferSize.toNat (pullBegin s) := by
  rw [pullAtOnce, if_pos ha, pullRemainder]
  cases pullTicks Config.units s.bufferSize.toNat (pullBegin s) <;> rfl

/-- One step ends a PULL whose burst is full or whose sequence is over (R184). -/
theorem run_pull_end {s : State} (hg : s.gate = .render) (hi : s.inputs = [])
    (h : s.pullCount = s.pullLimit ∨ s.active = false) : Host.Core.run core 1 s = .next (pullEnd s) :=
  run_next 0 ((step_pull_in_progress hg hi).trans (exec_pull_end hg h))

/-- A PULL in progress with `n` samples to go and no input runs as the loop does: one step for each tick, and one for
the end. -/
theorem run_pull_in_progress {n : ℕ} {s : State} (hg : s.gate = .render) (hi : s.inputs = [])
    (hn : s.pullCount.toNat + n = s.pullLimit.toNat) :
    ∃ k, k ≤ n + 1 ∧ Host.Core.run core k s = pullRemainder n s := by
  induction n generalizing s with
  | zero =>
    have hend := run_pull_end hg hi (.inl (BitVec.eq_of_toNat_eq hn))
    exact ⟨1, le_rfl, hend.trans (pullRemainder_of_over (.inl rfl)).symm⟩
  | succ n ih =>
    cases ha : s.active with
    | false =>
      have hend := run_pull_end hg hi (.inr ha)
      exact ⟨1, by omega, hend.trans (pullRemainder_of_over (.inr ha)).symm⟩
    | true =>
      have hstep := (step_pull_in_progress hg hi).trans (exec_pull_tick hg ha (by omega))
      cases ht : tick Config.units s with
      | error f =>
        rw [ht] at hstep
        exact ⟨1, by omega, (run_fault 0 hstep).trans (pullRemainder_of_fault ha ht).symm⟩
      | ok t =>
        rw [ht] at hstep
        have hq := tick_queueOnly ht
        obtain ⟨hgate, hlimit, hcount⟩ := hq.gate
        obtain ⟨-, -, -, hinputs⟩ := hq.env
        have hsucc : t.pullCount.toNat = s.pullCount.toNat + 1 :=
          (congrArg BitVec.toNat hcount).trans (pullCount_succ_toNat (by omega))
        have hlimit' : t.pullLimit.toNat = s.pullLimit.toNat := congrArg BitVec.toNat hlimit
        obtain ⟨k, hk, hrun⟩ := ih (hgate.trans hg) (hinputs.trans hi) (by omega)
        refine ⟨k + 1, by omega, ?_⟩
        rw [run_next k hstep, hrun, pullRemainder_of_tick ha ht]

/-- Once the word of PULL is taken, the first step answers idle or begins, and a begun PULL runs as the loop. -/
theorem run_pull_word {s u : State} (hstep : step s = exec .pull u) (hg : u.gate = .free) (hh : u.ctrlHold = none)
    (hi : u.inputs = []) : ∃ k, k ≤ u.bufferSize.toNat + 2 ∧ Host.Core.run core k s = pullAtOnce u := by
  cases ha : u.active with
  | false =>
    have hrun := run_next 0 (hstep.trans (exec_pull_idle hg ha))
    exact ⟨1, by omega, hrun.trans (pullAtOnce_idle ha).symm⟩
  | true =>
    obtain ⟨k, hk, hrun⟩ := run_pull_in_progress (n := u.bufferSize.toNat) (s := pullBegin u) rfl hi (Nat.zero_add _)
    refine ⟨k + 1, by omega, ?_⟩
    rw [run_next k (hstep.trans (exec_pull_begin hg ha hh)), hrun, pullAtOnce_active ha]

/-- Settles O58: with PULL as the only input no other step comes between its own. -/
theorem pullIsOneFunction : Obligations.PullIsOneFunction :=
  fun _ hg hh hi => run_pull_word (step_pull_word hg hh hi) hg hh rfl

end Sys2Proof.Machine

/-! PROOFS of the family of `45_concurrency_gate.md`: which step comes next (R206, R209, R210), which steps do not exist
(R209, U8), what the gate keeps from the control port (R200 to R204), and that a PULL in progress ends (R207, R210). -/

namespace Sys2Proof.Machine

open Sys2Proof

/-! ## What a port takes (R40, R41, R206) -/

theorem portAccepts_control_iff {s : State} {w : Word64} : portAccepts s .control w = true ↔ s.ctrlHold = none := by
  simp [portAccepts]

theorem portAccepts_stream_iff {s : State} {w : Word64} :
    portAccepts s .stream w = true ↔
      s.gate = .free ∧ (decodeCommand .stream w = .ok .pull → s.active = true → s.ctrlHold = none) := by
  simp only [portAccepts, Bool.and_eq_true, beq_iff_eq, Bool.not_eq_true', Bool.and_eq_false_iff,
    Option.isSome_eq_false_iff, Option.isNone_iff_eq_none, decide_eq_false_iff_not]
  cases s.active <;> tauto

/-- During a PULL words are taken on the control port alone (R41). -/
theorem control_of_portAccepts_of_render {s : State} {p : Port} {w : Word64} (hg : s.gate = .render)
    (hp : portAccepts s p w = true) : p = .control := by
  cases p with
  | control => rfl
  | stream => exact absurd (hg.symm.trans (portAccepts_stream_iff.1 hp).1) nofun

/-! ## The next step, by the next input (R209, R210) -/

section NextInput

variable {s : State} {p : Port} {w : Word64} {rest : List Input}

theorem step_of_no_input (h : s.inputs = []) : step s = blockStep s := by
  simp only [step, nextStep, h]

theorem step_of_run (h : s.inputs = .run :: rest) : step s = blockStep { s with inputs := rest } := by
  simp only [step, nextStep, h]

theorem step_of_word_taken (h : s.inputs = .command p w :: rest) (hp : portAccepts s p w = true) :
    step s = issueWord p w { s with inputs := rest } := by
  simp only [step, nextStep, h, if_pos hp]

theorem step_of_word_waiting (h : s.inputs = .command p w :: rest) (hp : portAccepts s p w ≠ true) :
    step s = blockStep s := by
  simp only [step, nextStep, h, if_neg hp]

theorem blockStep_of_render (hg : s.gate = .render) : blockStep s = exec .pull s := by
  simp only [blockStep, hg]

theorem blockStep_of_held {h : HeldPlay} (hg : s.gate = .free) (hh : s.ctrlHold = some h) :
    blockStep s = exec (.play h.base h.len) s := by
  simp only [blockStep, hg, hh]

theorem blockStep_of_quiet (hg : s.gate = .free) (hh : s.ctrlHold = none) : blockStep s = .next s := by
  simp only [blockStep, hg, hh]

end NextInput

/-- Settles O6: the port takes the word, and the word is the command `i`. -/
theorem stepRunsAcceptedWord : Obligations.StepRunsAcceptedWord := by
  intro s p w rest i hin hd hcontrol hstream
  have hp : portAccepts s p w = true := by
    cases p with
    | control => exact portAccepts_control_iff.2 (hcontrol rfl)
    | stream =>
      obtain ⟨hg, hfirst⟩ := hstream rfl
      exact portAccepts_stream_iff.2 ⟨hg, fun hpull => hfirst (Except.ok.inj (hd.symm.trans hpull))⟩
  exact (step_of_word_taken hin hp).trans (issueWord_of_ok hd _)

/-- Settles O8: neither port takes the word, so the step is the block's own. -/
theorem stepContinuesPull : Obligations.StepContinuesPull := by
  intro s hg
  refine ⟨fun hin => ?_, fun rest hin => ?_, fun w rest hin => ?_, fun w rest hin hheld => ?_⟩
  · exact (step_of_no_input hin).trans (blockStep_of_render hg)
  · exact (step_of_run hin).trans (blockStep_of_render hg)
  · have hwait : portAccepts s .stream w ≠ true := fun hp =>
      absurd (control_of_portAccepts_of_render hg hp) nofun
    exact (step_of_word_waiting hin hwait).trans (blockStep_of_render hg)
  · have hwait : portAccepts s .control w ≠ true := fun hp => hheld (portAccepts_control_iff.1 hp)
    exact (step_of_word_waiting hin hwait).trans (blockStep_of_render hg)

/-- Settles O9: with a PLAY held neither word is taken, so the step is the block's own. -/
theorem heldPlayInstallsFirst : Obligations.HeldPlayInstallsFirst := by
  intro s h rest hh hg
  have hheld : s.ctrlHold ≠ none := fun hnone => absurd (hh.symm.trans hnone) nofun
  refine ⟨fun ha hin => ?_, fun w hin => ?_⟩
  · have hpull : decodeCommand .stream 0x0A00000000000000#64 = .ok .pull := by decide
    have hwait : portAccepts s .stream 0x0A00000000000000#64 ≠ true := fun hp =>
      hheld ((portAccepts_stream_iff.1 hp).2 hpull ha)
    exact (step_of_word_waiting hin hwait).trans (blockStep_of_held hg hh)
  · have hwait : portAccepts s .control w ≠ true := fun hp => hheld (portAccepts_control_iff.1 hp)
    exact (step_of_word_waiting hin hwait).trans (blockStep_of_held hg hh)

/-- Settles O10, from the block's own step with the gate free. -/
theorem quietBlockStep : Obligations.QuietBlockStep := by
  intro s hg
  refine ⟨fun hin => ⟨fun hh => ?_, fun h hh => ?_⟩, fun rest hin => ⟨fun hh => ?_, fun h hh => ?_⟩⟩
  · exact (step_of_no_input hin).trans (blockStep_of_quiet hg hh)
  · exact (step_of_no_input hin).trans (blockStep_of_held hg hh)
  · exact (step_of_run hin).trans (blockStep_of_quiet hg hh)
  · exact (step_of_run hin).trans (blockStep_of_held hg hh)

/-! ## Which steps do not exist (R114, R206, R209, U8) -/

theorem whenControlFree_refused {s t : State} : (∃ r, whenControlFree s t = .refused r) ↔ s.ctrlHold ≠ none := by
  unfold whenControlFree
  cases s.ctrlHold <;> simp

theorem whenStreamFree_refused {s t : State} : (∃ r, whenStreamFree s t = .refused r) ↔ s.gate = .render := by
  unfold whenStreamFree
  cases s.gate <;> simp

/-- A new PLAY is never refused, a PLAY that is not the held one always, the held one until the gate is free (R203). -/
theorem execPlay_refused {b : Word32} {l : BitVec 24} {s : State} :
    (∃ r, execPlay b l s = .refused r) ↔
      s.ctrlHold ≠ none ∧ ¬ (s.ctrlHold = some ⟨b, l⟩ ∧ s.gate = .free) := by
  unfold execPlay
  cases s.ctrlHold with
  | none => cases playValid b l s <;> cases s.gate <;> simp
  | some h =>
    by_cases hinstalls : h = ⟨b, l⟩ ∧ s.gate = .free
    · simp [hinstalls]
    · simp [hinstalls]

/-- A PULL waits in one case: it would begin a burst while a PLAY is held (R206). -/
theorem execPull_refused {s : State} :
    (∃ r, execPull s = .refused r) ↔ s.gate = .free ∧ s.active = true ∧ s.ctrlHold ≠ none := by
  unfold execPull pullStep
  cases s.gate with
  | free => cases s.active <;> cases s.ctrlHold <;> simp
  | render => cases pullHasWork s <;> simp

theorem execEffect_refused {r : Effect} {s : State} :
    (∃ x, execEffect r s = .refused x) ↔ s.active = false ∨ s.pos = s.seqCount := by
  unfold execEffect
  by_cases hp : s.pos = s.seqCount <;> cases s.active <;> simp [hp]

/-- Settles O49, one row of R209 for each instruction. -/
theorem refusedExactlyWhenNotEnabled : Obligations.RefusedExactlyWhenNotEnabled := by
  intro i s
  cases i with
  | play b l => exact execPlay_refused
  | pull => exact execPull_refused
  | effect r => exact execEffect_refused
  | getFormat p =>
    cases p with
    | control => exact whenControlFree_refused
    | stream => exact whenStreamFree_refused
  | setSampleRate a | setSampleRange a | setBufferSize a | setOrMask a | connect a | getSampleRate
  | getSampleRange => exact whenControlFree_refused

/-- A word is taken only where its command has a step (R209). -/
theorem exec_ne_refused_of_portAccepts {s : State} {p : Port} {w : Word64} {i : Instr}
    (hp : portAccepts s p w = true) (hd : decodeCommand p w = .ok i) (r : Refusal) : exec i s ≠ .refused r := by
  intro hr
  have hnot := (refusedExactlyWhenNotEnabled i s).1 ⟨r, hr⟩
  obtain ⟨hcontrol, hstream, hfirst⟩ := portAccepts_enabled hp hd
  cases i with
  | play b l => exact hnot.1 (hcontrol nofun nofun)
  | pull =>
    obtain ⟨-, ha, hheld⟩ := hnot
    exact hheld (hfirst rfl ha)
  | effect e => exact decodeCommand_ne_effect hd
  | getFormat q =>
    cases q with
    | control => exact hnot (hcontrol nofun nofun)
    | stream => exact absurd ((hstream rfl).symm.trans hnot) nofun
  | setSampleRate a | setSampleRange a | setBufferSize a | setOrMask a | connect a | getSampleRate
  | getSampleRange => exact hnot (hcontrol nofun nofun)

/-- Settles O50, case by case over the ways a step can end. -/
theorem stepNeverRefuses : Obligations.StepNeverRefuses := by
  intro s r hr
  rcases step_eq_cases s with ⟨u, -, he⟩ | ⟨a, bytes, rest, -, he⟩ | ⟨rest, -, he⟩ | ⟨p, u, -, he⟩ |
      ⟨u, -, hg, he⟩ | ⟨u, x, -, hg, hheld, he⟩ | ⟨u, p, w, i, -, hport, hd, he⟩
  · -- the block keeps its state
    exact absurd (he.symm.trans hr) nofun
  · -- a host write
    exact absurd (he.symm.trans hr) nofun
  · -- reset
    exact absurd (he.symm.trans hr) nofun
  · -- an illegal word
    exact absurd (he.symm.trans hr) nofun
  · -- the PULL in progress
    obtain ⟨hfree, -⟩ := execPull_refused.1 ⟨r, he.symm.trans hr⟩
    exact absurd (hg.symm.trans hfree) nofun
  · -- the held PLAY
    obtain ⟨-, hnot⟩ := execPlay_refused.1 ⟨r, he.symm.trans hr⟩
    exact hnot ⟨hheld, hg⟩
  · -- an accepted word
    exact exec_ne_refused_of_portAccepts hport hd r (he.symm.trans hr)

/-! ## A PLAY that does not install at once (R111, R203, R204) -/

/-- The answer to a refused operand is one response, of status 1 and `DATA` 0, and nothing else (R241, R242). -/
theorem raiseInvalidParameter_eq (s : State) :
    raiseInvalidParameter s = { s with out := s.out ++ [.response .control 0x0100000000000000#64] } := by
  rw [← rspWord_invalid_zero]
  rfl

theorem execPlay_of_invalid {b : Word32} {l : BitVec 24} {s : State} (hnone : s.ctrlHold = none)
    (hv : ¬ PlayAcceptable s b l) : execPlay b l s = .next (raiseInvalidParameter s) := by
  have hfails : ¬ playValid b l s = true := fun h => hv ((playValid_iff s b l).1 h)
  simp only [execPlay, hnone, if_neg hfails]

theorem execPlay_of_render {b : Word32} {l : BitVec 24} {s : State} (hnone : s.ctrlHold = none)
    (hg : s.gate = .render) (hv : PlayAcceptable s b l) : execPlay b l s = .next (playHold b l s) := by
  simp only [execPlay, hnone, hg, if_pos ((playValid_iff s b l).2 hv)]

/-- Settles O23: validation comes before the gate. -/
theorem invalidPlayAnswersAtOnce : Obligations.InvalidPlayAnswersAtOnce := by
  intro b l s hnone hbad
  rw [← raiseInvalidParameter_eq]
  exact execPlay_of_invalid hnone hbad

/-- Settles O24: the operands pass validation and the gate is not free. -/
theorem playIsHeldDuringPull : Obligations.PlayIsHeldDuringPull :=
  fun _ _ _ hnone hg hv => execPlay_of_render hnone hg hv

/-! ## What the gate keeps from the control port (R200, R202, R205) -/

theorem SameRendering.refl (s : State) : SameRendering s s :=
  ⟨rfl, rfl, rfl, rfl, rfl, rfl, rfl, rfl, rfl, rfl, rfl, rfl⟩

theorem SameGate.refl (s : State) : SameGate s s := ⟨rfl, rfl, rfl⟩

/-- Settles O45: such a command writes its response and at most configuration registers, `SINK` and `CONNECTED`. -/
theorem ungatedCommandsKeepRendering : Obligations.UngatedCommandsKeepRendering := by
  intro i s t hplay hpull heffect h
  obtain ⟨p, st, d, -, -, ht⟩ := exec_ungated_cases hplay hpull heffect h
  rw [ht]
  exact ⟨SameRendering.refl s, SameGate.refl s, rfl, fun _ => rfl, rfl, rfl, rfl⟩

/-- While the gate is not free a PLAY fails or becomes held (R203, R204). -/
theorem execPlay_keeps_rendering {b : Word32} {l : BitVec 24} {s t : State} (hg : s.gate = .render)
    (h : execPlay b l s = .next t) : SameRendering s t ∧ SameGate s t := by
  rcases execPlay_cases h with ⟨-, -, rfl⟩ | ⟨-, -, -, rfl⟩ | ⟨-, hfree, -⟩
  · exact ⟨SameRendering.refl s, SameGate.refl s⟩
  · exact ⟨SameRendering.refl s, SameGate.refl s⟩
  · exact absurd (hg.symm.trans hfree) nofun

/-- Settles O46: PULL and a record are not legal on the control port, and PLAY cannot install. -/
theorem noControlCommandChangesRenderingMidBurst : Obligations.NoControlCommandChangesRenderingMidBurst := by
  intro i s t hg hport h
  have hpull : i ≠ .pull := by
    rintro rfl
    simp [Instr.ports] at hport
  have heffect : ∀ r, i ≠ .effect r := by
    rintro r rfl
    simp [Instr.ports] at hport
  by_cases hplay : ∃ b l, i = .play b l
  · obtain ⟨b, l, rfl⟩ := hplay
    exact execPlay_keeps_rendering hg h
  · obtain ⟨hrender, hgate, -⟩ :=
      ungatedCommandsKeepRendering i s t (fun b l hi => hplay ⟨b, l, hi⟩) hpull heffect h
    exact ⟨hrender, hgate⟩

/-! ## The sequence of a burst (R202, R208) -/

/-- The second state has the first one's sequence installed. -/
def SameSequence (s t : State) : Prop := t.seqBase = s.seqBase ∧ t.seqCount = s.seqCount

theorem SameSequence.trans {s t u : State} (h : SameSequence s t) (g : SameSequence t u) : SameSequence s u :=
  ⟨g.1.trans h.1, g.2.trans h.2⟩

theorem Took.sameSequence {s u : State} (hu : Took s u) : SameSequence s u :=
  ⟨hu.sameHolding.base, hu.sameHolding.count⟩

theorem Took.gate {s u : State} (hu : Took s u) : u.gate = s.gate := by
  rcases hu with rfl | ⟨x, rest, -, rfl⟩ <;> rfl

/-- Settles O57, case by case over the ways a step can end: during a PULL no held PLAY installs, and an accepted word is
a command of the control port. -/
theorem burstComesFromOneSequence : Obligations.BurstComesFromOneSequence := by
  intro s t hg hreset hstep
  change SameSequence s t
  rcases step_eq_cases s with ⟨u, hu, he⟩ | ⟨a, bytes, rest, -, he⟩ | ⟨rest, hin, -⟩ | ⟨p, u, hu, he⟩ |
      ⟨u, hu, -, he⟩ | ⟨u, x, hu, hfree, -, -⟩ | ⟨u, p, w, i, hu, hport, hd, he⟩
  · -- the block keeps its state
    cases he.symm.trans hstep
    exact hu.sameSequence
  · -- a host write
    cases he.symm.trans hstep
    exact ⟨rfl, rfl⟩
  · -- reset
    exact absurd hin (hreset rest)
  · -- an illegal word
    have hkept := hu.sameSequence
    cases he.symm.trans hstep
    exact hkept
  · -- the PULL in progress
    have hf := execPull_frame (he.symm.trans hstep)
    exact hu.sameSequence.trans ⟨hf.base, hf.count⟩
  · -- the held PLAY
    exact absurd ((hu.gate.trans hg).symm.trans hfree) nofun
  · -- an accepted word
    have hrender := hu.gate.trans hg
    obtain rfl := control_of_portAccepts_of_render hrender hport
    obtain ⟨⟨-, hbase, hcount, -⟩, -⟩ := noControlCommandChangesRenderingMidBurst i u t hrender
      (decodeCommand_legal hd).1 (he.symm.trans hstep)
    exact hu.sameSequence.trans ⟨hbase, hcount⟩

/-! ## The end of a PULL (R203, R207, R210) -/

/-- On intact sequences the rest of a PULL reaches its end without a fault, and no tick touches a held PLAY. -/
theorem State.SequencesIntact.pullRemainder_ends {n : ℕ} {s : State} (h : s.SequencesIntact) (hs : s.Inv)
    (hn : s.pullCount.toNat + n = s.pullLimit.toNat) :
    ∃ t, pullRemainder n s = .next (pullEnd t) ∧ t.ctrlHold = s.ctrlHold := by
  induction n generalizing s with
  | zero => exact ⟨s, pullRemainder_of_over (.inl rfl), rfl⟩
  | succ n ih =>
    cases ha : s.active with
    | false => exact ⟨s, pullRemainder_of_over (.inr ha), rfl⟩
    | true =>
      have hlt : s.pullCount.toNat < s.pullLimit.toNat := by omega
      have hw := pullHasWork_iff.2 ⟨ha, hlt⟩
      obtain ⟨u, hu, hintact⟩ := h.tick_intact hs Config.units hw
      have hq := tick_queueOnly hu
      obtain ⟨-, hlimit, hcount⟩ := hq.gate
      have hsucc : u.pullCount.toNat = s.pullCount.toNat + 1 :=
        (congrArg BitVec.toNat hcount).trans (pullCount_succ_toNat hlt)
      have hlimit' : u.pullLimit.toNat = s.pullLimit.toNat := congrArg BitVec.toNat hlimit
      obtain ⟨t, hend, hhold⟩ := ih hintact (hs.tick_inv hw hu) (by omega)
      exact ⟨t, (pullRemainder_of_tick ha hu).trans hend, hhold.trans hq.hold⟩

/-- Settles O60: the steps of the PULL are the loop of R185, which ends. -/
theorem gateIsFreedWithinLimit : Obligations.GateIsFreedWithinLimit := by
  intro s hs h hg hin
  obtain ⟨-, hle⟩ := hs.pull_bounds hg
  have hn := Nat.add_sub_cancel' hle
  obtain ⟨k, hk, hrun⟩ := run_pull_in_progress hg hin hn
  obtain ⟨t, hend, hhold⟩ := h.pullRemainder_ends hs hn
  exact ⟨k, pullEnd t, hk, hrun.trans hend, rfl, hhold⟩

end Sys2Proof.Machine

/-! PROOFS of the family of `46_configuration.md`: what each of the six configuration commands answers, writes and
leaves unchanged (R216 to R221). -/

namespace Sys2Proof.Machine

open Sys2Proof

/-! ## The two forms of a configuration command

A getter answers with a register. A setter checks its operand, then writes one register and answers `OK`, or fails. -/

/-- A getter's answer is the register's value, and nothing else changes (R217, R219). -/
theorem getter_answers {n : ℕ} {s : State} (v : BitVec n) (hn : n ≤ 32) (hfree : s.ctrlHold = none) :
    whenControlFree s (respond .control .ok (zext32 v) s) =
      .next { s with out := s.out ++ [.response .control (BitVec.ofNat 64 v.toNat)] } := by
  rw [← rspWord_ok_zext32 v hn]
  exact whenControlFree_next.2 ⟨hfree, rfl⟩

/-- A setter whose operand passes the check (`P`) ends in the written state `u` with one `OK` response behind it; one
whose operand does not (`Q`) writes no register (R242). -/
theorem setter_result {valid : Bool} {P Q : Prop} {s u : State} (hfree : s.ctrlHold = none)
    (hvalid : valid = true ↔ P) (hfails : Q → ¬ P) :
    let result := whenControlFree s (if valid then respond .control .ok 0#32 u else raiseInvalidParameter s)
    (P → result = .next { u with out := u.out ++ [.response .control 0#64] }) ∧
    (Q → result = .next { s with out := s.out ++ [.response .control 0x0100000000000000#64] }) := by
  constructor
  · intro hP
    rw [if_pos (hvalid.2 hP), ← rspWord_ok_zero]
    exact whenControlFree_next.2 ⟨hfree, rfl⟩
  · intro hQ
    rw [if_neg (mt hvalid.1 (hfails hQ))]
    exact whenControlFree_next.2 ⟨hfree, raiseInvalidParameter_eq s⟩

/-! ## The six commands (R216 to R221) -/

/-- Settles O15: the operand is checked as a positive `signed32`, and `SAMPLE_RATE` takes its low 31 bits. -/
theorem setSampleRateResult : Obligations.SetSampleRateResult := by
  intro a s hfree
  rw [← low31_eq]
  exact setter_result hfree (positiveSigned_iff a) not_lt_of_ge

/-- Settles O16: `SAMPLE_RATE` has 31 bits, so it fits `DATA`. -/
theorem getSampleRateResult : Obligations.GetSampleRateResult :=
  fun s hfree => getter_answers s.sampleRate (by decide) hfree

/-- Settles O17: the operand is checked to fit 16 bits, and `SAMPLE_RANGE` takes them. -/
theorem setSampleRangeResult : Obligations.SetSampleRangeResult := by
  intro a s hfree
  rw [← low16_eq]
  exact setter_result hfree (fits16_iff a) not_lt_of_ge

/-- Settles O18: `SAMPLE_RANGE` has 16 bits, so it fits `DATA`. -/
theorem getSampleRangeResult : Obligations.GetSampleRangeResult :=
  fun s hfree => getter_answers s.sampleRange (by decide) hfree

/-- Settles O19: the operand is checked as a positive `signed32`, and `BUFFER_SIZE` takes its low 31 bits. -/
theorem setBufferSizeResult : Obligations.SetBufferSizeResult := by
  intro a s hfree
  rw [← low31_eq]
  exact setter_result hfree (positiveSigned_iff a) not_lt_of_ge

/-- Settles O20: the operand is checked to fit 16 bits, and `OR_MASK` takes them. -/
theorem setOrMaskResult : Obligations.SetOrMaskResult := by
  intro a s hfree
  rw [← low16_eq]
  exact setter_result hfree (fits16_iff a) not_lt_of_ge

end Sys2Proof.Machine

/-! PROOFS of the family of `60_exceptions.md`: an illegal word is answered in its step (R85, R243), and a response
with a non-zero status is the only effect of what gives it (R242). -/

namespace Sys2Proof.Machine

open Sys2Proof

/-! ## An illegal word as the next input (R85, R243) -/

/-- Settles O7: an illegal word is no PULL, so a free port takes it, and it fails there. -/
theorem stepAnswersIllegalWord : Obligations.StepAnswersIllegalWord := by
  intro s p w rest c hin hd hcontrol hstream
  have hp : portAccepts s p w = true := by
    cases p with
    | control => exact portAccepts_control_iff.2 (hcontrol rfl)
    | stream => exact portAccepts_stream_iff.2 ⟨hstream rfl, fun hpull => absurd (hd.symm.trans hpull) nofun⟩
  rw [step_of_word_taken hin hp, issueWord_of_error hd, raiseIllegalCommand_eq]

/-! ## Failing, or not (R240, R242) -/

/-- From `s` to `t` the history grows, and no response it gained has a non-zero status (R240). -/
def NoFailure (s t : State) : Prop :=
  ∃ new, t.out = s.out ++ new ∧ ∀ p w, .response p w ∈ new → w.toNat / 2 ^ 56 = 0

theorem Answers.refl (ports : List Port) (s : State) : Answers ports s s := answers_of_out_eq rfl

/-- What answers on no port gives no response, so none that fails. -/
theorem Answers.noFailure {s t : State} (h : Answers [] s t) : NoFailure s t := by
  obtain ⟨new, hout, hnew⟩ := h
  exact ⟨new, hout, fun p w hin => absurd (hnew p w hin).1 List.not_mem_nil⟩

/-- What gives no response but one `OK` at its end does not fail. -/
theorem Answers.noFailure_of_ok {p : Port} {d : Word32} {s u t : State} (h : Answers [] s u)
    (ht : t.out = u.out ++ [.response p (rspWord .ok d)]) : NoFailure s t := by
  obtain ⟨new, hout, hnew⟩ := h.noFailure
  refine ⟨new ++ [.response p (rspWord .ok d)], by rw [ht, hout, List.append_assoc], fun q w hin => ?_⟩
  rcases List.mem_append.1 hin with hin | hin
  · exact hnew q w hin
  · cases List.mem_singleton.1 hin
    exact rspWord_status .ok d

/-- From `s` to `t` a command or a word fails, in the model's one way of failing (R242). -/
def FailedFrom (s t : State) : Prop := ∃ p st, t = raiseFailure p st s

/-- A PLAY fails only in validation, before it writes anything (R111, R242). -/
theorem execPlay_fails_or_not {b : Word32} {l : BitVec 24} {s t : State} (h : execPlay b l s = .next t) :
    FailedFrom s t ∨ NoFailure s t := by
  rcases execPlay_cases h with ⟨-, -, rfl⟩ | ⟨-, -, -, rfl⟩ | ⟨-, -, u, hl, rfl⟩
  · exact .inl ⟨.control, .invalidParameter, rfl⟩
  · exact .inr (answers_of_out_eq rfl).noFailure
  · exact .inr (((installSequence_answers b l s).trans (load_answers hl)).noFailure_of_ok rfl)

/-- PULL has no failing response (R181 to R184). -/
theorem execPull_noFailure {s t : State} (h : execPull s = .next t) : NoFailure s t := by
  rcases execPull_cases h with ⟨-, -, rfl⟩ | ⟨-, -, -, rfl⟩ | ⟨-, -, ht⟩ | ⟨-, -, rfl⟩
  · exact (Answers.refl [] s).noFailure_of_ok rfl
  · exact (answers_of_out_eq rfl).noFailure
  · exact (tick_answers ht).noFailure
  · exact (Answers.refl [] s).noFailure_of_ok rfl

/-- A command without a gate fails with nothing written, or answers `OK` (R242). -/
theorem exec_ungated_fails_or_not {i : Instr} {s t : State} (h : exec i s = .next t) (hp : ∀ b l, i ≠ .play b l)
    (hq : i ≠ .pull) (he : ∀ r, i ≠ .effect r) : FailedFrom s t ∨ NoFailure s t := by
  obtain ⟨p, st, d, -, hfail, ht⟩ := exec_ungated_cases hp hq he h
  by_cases hst : st = .ok
  · subst hst
    exact .inr ((Answers.refl [] s).noFailure_of_ok (congrArg State.out ht))
  · obtain ⟨rfl, hfailed⟩ := hfail hst
    exact .inl ⟨p, st, hfailed⟩

/-- An instruction fails with nothing written, or gives no failing response (R242). -/
theorem exec_fails_or_not {i : Instr} {s t : State} (h : exec i s = .next t) : FailedFrom s t ∨ NoFailure s t := by
  cases i with
  | play b l => exact execPlay_fails_or_not h
  | pull => exact .inr (execPull_noFailure h)
  | effect r =>
    obtain ⟨-, -, hr⟩ := execEffect_next.1 h
    exact .inr (runRecord_answers hr).noFailure
  | setSampleRate a | setSampleRange a | setBufferSize a | setOrMask a | connect a | getSampleRate | getSampleRange
  | getFormat p => exact exec_ungated_fails_or_not h (fun _ _ => nofun) nofun fun _ => nofun

/-- A word on a port does so too: it is a command, or it fails as illegal (R85, R243). -/
theorem issueWord_fails_or_not {p : Port} {w : Word64} {s t : State} (h : issueWord p w s = .next t) :
    FailedFrom s t ∨ NoFailure s t := by
  cases hd : decodeCommand p w with
  | ok i => exact exec_fails_or_not ((issueWord_of_ok hd s).symm.trans h)
  | error c =>
    cases (issueWord_of_error hd s).symm.trans h
    exact .inl ⟨p, .illegalCommand, rfl⟩

/-- Settles O47: a failing response leaves only the failure, which is one response and nothing else. -/
theorem failedCommandChangesNothing : Obligations.FailedCommandChangesNothing := by
  rintro s t new hrun hout ⟨p, w, hin, hstatus⟩
  have hends : FailedFrom s t ∨ NoFailure s t := by
    rcases hrun with ⟨i, h⟩ | ⟨q, v, h⟩
    · exact exec_fails_or_not h
    · exact issueWord_fails_or_not h
  rcases hends with ⟨q, st, rfl⟩ | ⟨added, hadded, hok⟩
  · obtain rfl : [.response q (rspWord st 0#32)] = new := List.append_cancel_left hout
    exact ⟨rfl, rfl⟩
  · obtain rfl : new = added := List.append_cancel_left (hout.symm.trans hadded)
    exact absurd (hok p w hin) hstatus

end Sys2Proof.Machine

/-! PROOFS of the family of `70_reset_and_hazards.md`: the reset values (R270), the reset input in any state (R271,
R272), and that the block starts within its invariants (R44 to R46). -/

namespace Sys2Proof.Machine

open Sys2Proof

/-! ## The reset state (R270, R271) -/

/-- Settles O13, register by register: each value is the one `State.reset` is defined with, and the record of a latch
of zeros is sixteen zero words. -/
theorem resetLeavesResetValues : Obligations.ResetLeavesResetValues := by
  unfold Obligations.ResetLeavesResetValues
  and_intros <;> rfl

/-! ## The reset input (R271, R272) -/

theorem step_of_reset {s : State} {rest : List Input} (h : s.inputs = .reset :: rest) :
    step s = .next (applyReset { s with inputs := rest }) := by
  simp only [step, nextStep, h]

/-- Settles O14: no port and no gate is asked before reset is applied, and it takes from the state before it just the
memory, the tables and the outside world's lists. -/
theorem resetInputRestoresRegisters : Obligations.ResetInputRestoresRegisters := by
  intro s rest hin
  rw [step_of_reset hin, applyReset]

/-! ## The invariants at reset (R44 to R46, R270) -/

/-- At power-on a further reset changes nothing, so what holds after any reset holds of the reset state. -/
theorem applyReset_reset : applyReset State.reset = State.reset := rfl

/-- Reset leaves no effect active, and the schedule speaks of active ones only (R158, R270). -/
theorem applyReset_onSchedule (s : State) : (applyReset s).OnSchedule := nofun

/-- Settles O51: the reset state is reached by a reset, on the empty memory. -/
theorem resetMeetsInvariant : Obligations.ResetMeetsInvariant := by
  have hempty : State.reset.mem.wf = true := by decide
  unfold Obligations.ResetMeetsInvariant
  rw [← applyReset_reset]
  exact ⟨applyReset_inv hempty, applyReset_onSchedule _, applyReset_intact _⟩

end Sys2Proof.Machine
